-- ==== Sys2Proof/Word.lean ====
section
/-! DEFINITION. The words of the block: bytes, command words, register values. Every one is unsigned and bit 0 is
its least significant bit (00_scope.md R11). -/

namespace Sys2Proof

/-- One byte of a bus exchange (20_memory.md R34). -/
abbrev Byte := BitVec 8

/-- A 16-bit long command word (30_encoding.md R58), and a value operand or result, `VALUE_W` = 16 (00_scope.md R10). -/
abbrev Word16 := BitVec 16

/-- A chip register's value, 9 bits (10_state.md R25). -/
abbrev Data9 := BitVec 9

/-- A register address, 4 bits (30_encoding.md R59). -/
abbrev RegAddr := BitVec 4

/-- An operation field, 2 bits (30_encoding.md R60). -/
abbrev OpBits := BitVec 2

/-- The unit-0 form of a TCON flag mask, 4 bits (00_scope.md R8). -/
abbrev FlagMask := BitVec 4

/-- A select line's identifier: opaque, only ever passed on and compared (10_state.md R14). -/
abbrev SelectId := Nat

end Sys2Proof
end

