-- ==== Sys2Proof/Config.lean ====
section
/-! DEFINITION. What is fixed for a machine: the protocol parameters of 00_scope.md R8 and R10, the construction
options of R7, and the free values (the draws `any_N` of R12 and the environment's answers that nothing names). -/

namespace Sys2Proof

/-- `BUS_CFG`, the opaque triple passed to `set_bus_mode` (00_scope.md R10, D4). No rule inspects it: each token
stands for a setting the spec does not give. -/
structure BusCfg where
  bitOrder  : Nat
  clockMode : Nat
  clockRate : Nat
  deriving DecidableEq, Repr

/-- The protocol parameters `P` (00_scope.md R8) with `BUS_CFG` and `NEST_MAX` (R10). The spec gives names, widths
and constraints and leaves the values open (D1, D2, D4, D5). -/
structure Params where
  addrWiper0     : RegAddr
  addrWiper1     : RegAddr
  addrTcon       : RegAddr
  addrStatus     : RegAddr
  opWrite        : OpBits
  opInc          : OpBits
  opDec          : OpBits
  opRead         : OpBits
  maskTermA      : FlagMask
  maskTermB      : FlagMask
  maskWiper      : FlagMask
  maskShdn       : FlagMask
  maskStatusShdn : Data9
  busCfg         : BusCfg
  nestMax        : Nat
  deriving DecidableEq, Repr

/-- Exactly one bit of `m` is set. -/
abbrev OneHot {w : Nat} (m : BitVec w) : Prop := m ≠ 0 ∧ m &&& (m - 1) = 0

/-- The constraints of the table of 00_scope.md R8 and of R10: the four addresses pairwise distinct, the four
operations pairwise distinct, the four TCON masks one-hot and pairwise distinct, the status mask one-hot, and
`NEST_MAX` at least 2. -/
abbrev Params.Ok (P : Params) : Prop :=
  [P.addrWiper0, P.addrWiper1, P.addrTcon, P.addrStatus].Nodup ∧
  [P.opWrite, P.opInc, P.opDec, P.opRead].Nodup ∧
  (OneHot P.maskTermA ∧ OneHot P.maskTermB ∧ OneHot P.maskWiper ∧ OneHot P.maskShdn) ∧
  [P.maskTermA, P.maskTermB, P.maskWiper, P.maskShdn].Nodup ∧
  OneHot P.maskStatusShdn ∧
  2 ≤ P.nestMax

/-- `cfg.unit` (10_state.md R15): one of the two units, so that no other index can be written. -/
inductive UnitIndex where
  | unit0
  | unit1
  deriving DecidableEq, Repr

/-- `cfg.resolution` (10_state.md R16): 127 or 255, no other value is legal. -/
inductive Resolution where
  | res7bit
  | res8bit
  deriving DecidableEq, Repr

/-- `cfg.wiper_cfg` (10_state.md R17). -/
inductive WiperCfg where
  | rheostat
  | potentiometer
  deriving DecidableEq, Repr

/-- The four construction options of a session, fixed for its lifetime (00_scope.md R7). -/
structure SessionCfg where
  selectId   : SelectId
  unit       : UnitIndex
  resolution : Resolution
  wiperCfg   : WiperCfg
  deriving DecidableEq, Repr

/-- The draw `any_9` (00_scope.md R12; 41_select_transfer.md R96): the data result of a refused long transfer. A free
value for each draw: nothing is known of it (entry 5). -/
opaque Config.any9 : Nat → Data9

/-- The draw `any_16` (42_wiper.md R106): the value result of a failed `GET` (entry 5). -/
opaque Config.any16 : Nat → Word16

/-- The draw `any_bool` (43_tcon_status.md R112, R121): the flag result of a failed flag getter (entry 5). -/
opaque Config.anyBool : Nat → Bool

/-- The environment's answer to a byte exchange that no script of the state names (20_memory.md R35: 'any of the 256
byte values may come back at any exchange'; entry 4). -/
opaque Config.envReply : Nat → Byte

end Sys2Proof
end

