-- ==== Sys2Proof/Machine/Codec.lean ====
section
/-! DEFINITION. The Command Codec (40_codec.md): four pure functions, written from their formulas, and the order of a
long word's two bytes (20_memory.md R38). The fixed constants are those of 00_scope.md R9. -/

namespace Sys2Proof.Machine

/-- `validity_probe_bit` (00_scope.md R9). -/
def validityProbeBit : Byte := 0x02#8

/-- `address_mask` (00_scope.md R9). -/
def addressMask : Byte := 0xF0#8

/-- `opcode_mask` (00_scope.md R9). -/
def opcodeMask : Byte := 0x0C#8

/-- `data_high_bit` (00_scope.md R9). -/
def dataHighBit : Byte := 0x01#8

/-- `DATA_MASK` (00_scope.md R9). -/
def dataMask : Word16 := 0x1FF#16

/-- `READ_DUMMY` (00_scope.md R9). -/
def readDummy : Word16 := 0x1FF#16

/-- `ENC8`, the document's `encode_short` (40_codec.md R81), for operands of up to 8 bits: what does not fit a field is
dropped by the field's mask. -/
def enc8 (address operation : Byte) : Byte :=
  ((address <<< 4) &&& addressMask) ||| ((operation <<< 2) &&& opcodeMask) ||| validityProbeBit

/-- `ENC16`, the document's `encode_long` (40_codec.md R82), for data of up to 16 bits. -/
def enc16 (address operation : Byte) (data : Word16) : Word16 :=
  ((enc8 address operation).setWidth 16 <<< 8) ||| (data &&& dataMask)

/-- The byte of a long word that goes on the bus first: bits 15:8 (20_memory.md R38). -/
def firstByte (w : Word16) : Byte := w.extractLsb' 8 8

/-- The byte of a long word that goes on the bus second: bits 7:0 (20_memory.md R38). -/
def secondByte (w : Word16) : Byte := w.extractLsb' 0 8

/-- `ISVALID` (40_codec.md R83, read as conflict C1 resolves it). -/
def isValid (b : Byte) : Bool := (b &&& validityProbeBit) != 0#8

/-- `DECDATA` (40_codec.md R84). -/
def decData (b1 b2 : Byte) : Data9 :=
  ((b1 &&& dataHighBit).setWidth 9 <<< 8) ||| b2.setWidth 9

end Sys2Proof.Machine
end

