-- ==== Sys2Proof/Machine/Construct.lean ====
section
/-! DEFINITION. Construction of a session (70_reset_and_hazards.md R151): the derived constant `max_value`, the reference
instantiation REF of the protocol parameters, and the construction options of the session that State.reset holds. -/

namespace Sys2Proof.Machine

/-- The number `cfg.resolution` stands for (10_state.md R16). -/
def resolutionSteps : Resolution → Word16
  | .res7bit => 127#16
  | .res8bit => 255#16

/-- `max_value = cfg.resolution + (1 if cfg.wiper_cfg == potentiometer else 0)` (10_state.md R18), held at 16 bits. -/
def maxValueOf (cfg : SessionCfg) : Word16 :=
  resolutionSteps cfg.resolution + (if cfg.wiperCfg = .potentiometer then 1#16 else 0#16)

/-- REF, the reference instantiation (00_scope.md R8; NEST_MAX of R10). PRESUMED: the spec marks every value but
NEST_MAX as general knowledge (93_implementation_defined.md G2 to G5; entry 1). The three tokens of `BUS_CFG` are a
DESIGN CHOICE (entry 3). -/
def refParams : Params where
  addrWiper0 := 0x0#4
  addrWiper1 := 0x1#4
  addrTcon := 0x4#4
  addrStatus := 0x5#4
  opWrite := 0b00#2
  opInc := 0b01#2
  opDec := 0b10#2
  opRead := 0b11#2
  maskTermA := 0x4#4
  maskTermB := 0x1#4
  maskWiper := 0x2#4
  maskShdn := 0x8#4
  maskStatusShdn := 0x002#9
  busCfg := { bitOrder := 0, clockMode := 0, clockRate := 0 }
  nestMax := 255

/-- The construction options of the session that State.reset holds. DESIGN CHOICE: the source gives no defaults
(91_not_in_source.md N14); these are the options of the source's end-to-end scenario, 'an 8-bit potentiometer-configured
single-unit chip' (95_test_vectors.md S7; entry 2). -/
def bootCfg : SessionCfg where
  selectId := 0
  unit := .unit0
  resolution := .res8bit
  wiperCfg := .potentiometer

end Sys2Proof.Machine
end

