-- ==== Sys2Proof/Syntax.lean ====
section
/-! DEFINITION. The syntax whole: one constructor for each of the 25 rows of spec/opcode_table.json (30_encoding.md R63,
R78), and the two kinds of words an instruction is written in. -/

namespace Sys2Proof

/-- The four wire commands (40_codec.md R85 to R88) and the twenty-one host operations (30_encoding.md R78), in the
table's order. A wire command's operands are as wide as the codec's own formulas take them (40_codec.md R81, R82): the
codec drops what does not fit its field (30_encoding.md R59, R62), and `WellFormed` says what fits. -/
inductive Instr where
  /-- `CMD_WRITE addr, data` (40_codec.md R85). -/
  | cmdWrite (addr : Byte) (data : Word16)
  /-- `CMD_READ addr` (R86): its data field is a dummy, so it is no operand. -/
  | cmdRead (addr : Byte)
  /-- `CMD_INCR addr` (R87). -/
  | cmdIncr (addr : Byte)
  /-- `CMD_DECR addr` (R88). -/
  | cmdDecr (addr : Byte)
  /-- `MAXVAL` (42_wiper.md R102). -/
  | maxval
  /-- `INCR` (42_wiper.md R103). -/
  | incr
  /-- `DECR` (42_wiper.md R104). -/
  | decr
  /-- `SET value` (42_wiper.md R105). -/
  | set (value : Word16)
  /-- `GET` (42_wiper.md R106). -/
  | get
  /-- `GETV` (42_wiper.md R107). -/
  | getv
  /-- `SETTA flag` (43_tcon_status.md R115). -/
  | setta (flag : Bool)
  /-- `GETTA` (43_tcon_status.md R116). -/
  | getta
  /-- `GETTAV` (43_tcon_status.md R122). -/
  | gettav
  /-- `SETTB flag` (43_tcon_status.md R117). -/
  | settb (flag : Bool)
  /-- `GETTB` (43_tcon_status.md R118). -/
  | gettb
  /-- `GETTBV` (43_tcon_status.md R123). -/
  | gettbv
  /-- `SETW flag` (43_tcon_status.md R119). -/
  | setw (flag : Bool)
  /-- `GETW` (43_tcon_status.md R120). -/
  | getw
  /-- `GETWV` (43_tcon_status.md R124). -/
  | getwv
  /-- `SETSHDN shutdown` (43_tcon_status.md R125). -/
  | setshdn (shutdown : Bool)
  /-- `GETSHDN` (43_tcon_status.md R126). -/
  | getshdn
  /-- `GETSHDNV` (43_tcon_status.md R127). -/
  | getshdnv
  /-- `GETHWSHDN` (43_tcon_status.md R128). -/
  | gethwshdn
  /-- `SELECT` (41_select_transfer.md R91). -/
  | select
  /-- `DESELECT` (41_select_transfer.md R92). -/
  | deselect
  deriving DecidableEq, Repr

/-- One instruction as it is written. The table has two spaces of words, which overlap as numbers, so a frame says
which one it is in. -/
inductive Frame where
  /-- What the host drives on the request port (30_encoding.md R77, R78): the 5-bit `req_op`, the 16-bit `value`
  operand and the 1-bit `flag` operand; an operation reads the operand its row names and no other. -/
  | host (reqOp : BitVec 5) (value : Word16) (flag : Bool)
  /-- The bytes of one wire command, in the order they go on the bus (30_encoding.md R57, R58; 20_memory.md R38). -/
  | wire (bytes : List Byte)
  deriving DecidableEq, Repr

/-- One request of the host: which session it is made to (60_exceptions.md R146) and the frame. -/
structure Request where
  session : Nat
  frame   : Frame
  deriving DecidableEq, Repr

end Sys2Proof
end

