-- ==== Sys2Proof/WellFormed.lean ====
section
/-! DEFINITION. Which instructions fit their encoding: an address operand of a wire command fits the 4-bit `addr` field
(30_encoding.md R59) and a data operand the 9-bit `data` field (R62). Every other operand has the exact width of its
port (R77). -/

namespace Sys2Proof

/-- The address operand fits 4 bits (30_encoding.md R59). -/
abbrev AddrFits (addr : Byte) : Prop := addr.toNat < 16

/-- The data operand fits 9 bits (30_encoding.md R62). -/
abbrev DataFits (data : Word16) : Prop := data.toNat < 512

/-- The instruction's operands fit the fields that carry them. -/
def wellFormed : Instr → Bool
  | .cmdWrite addr data => decide (AddrFits addr) && decide (DataFits data)
  | .cmdRead addr => decide (AddrFits addr)
  | .cmdIncr addr => decide (AddrFits addr)
  | .cmdDecr addr => decide (AddrFits addr)
  | .maxval => true
  | .incr => true
  | .decr => true
  | .set _ => true
  | .get => true
  | .getv => true
  | .setta _ => true
  | .getta => true
  | .gettav => true
  | .settb _ => true
  | .gettb => true
  | .gettbv => true
  | .setw _ => true
  | .getw => true
  | .getwv => true
  | .setshdn _ => true
  | .getshdn => true
  | .getshdnv => true
  | .gethwshdn => true
  | .select => true
  | .deselect => true

/-- `wellFormed` as a proposition. -/
abbrev WellFormed (i : Instr) : Prop := wellFormed i = true

end Sys2Proof
end

