-- ==== Sys2Proof/Decode.lean ====
section
/-! DEFINITION. The decoder, total on any frame and rejecting by name, then the encoder. Request codes are those of
30_encoding.md R78; wire commands have the formats S and L of R57 and R58, told apart by the `op` field of the first
byte (R65). -/

namespace Sys2Proof

/-- Why a frame is no instruction. -/
inductive Reject where
  /-- Request codes 21 to 31 (30_encoding.md R78). -/
  | reservedRequest (code : BitVec 5)
  /-- A wire frame without a byte. -/
  | noBytes
  /-- A first byte with the probe bit clear: 'never built' (30_encoding.md R61, R67). -/
  | probeBitClear
  /-- A short command whose bit 0 is set: `ENC8` leaves it 0 (30_encoding.md R57). -/
  | shortBitZeroSet
  /-- A long command cut after its first byte. -/
  | missingSecondByte
  /-- Bytes after the command's last (30_encoding.md R65 gives each command its length). -/
  | trailingBytes
  /-- An `op` field that is none of the four operations; none exists when the four are distinct (30_encoding.md R60). -/
  | unknownOperation
  deriving DecidableEq, Repr

/-- A host request (30_encoding.md R78). -/
def decodeHost (reqOp : BitVec 5) (value : Word16) (flag : Bool) : Except Reject Instr :=
  match reqOp.toNat with
  | 0 => .ok .maxval
  | 1 => .ok .incr
  | 2 => .ok .decr
  | 3 => .ok (.set value)
  | 4 => .ok .get
  | 5 => .ok .getv
  | 6 => .ok (.setta flag)
  | 7 => .ok .getta
  | 8 => .ok .gettav
  | 9 => .ok (.settb flag)
  | 10 => .ok .gettb
  | 11 => .ok .gettbv
  | 12 => .ok (.setw flag)
  | 13 => .ok .getw
  | 14 => .ok .getwv
  | 15 => .ok (.setshdn flag)
  | 16 => .ok .getshdn
  | 17 => .ok .getshdnv
  | 18 => .ok .gethwshdn
  | 19 => .ok .select
  | 20 => .ok .deselect
  | _ => .error (.reservedRequest reqOp)

/-- Field `addr` of a first byte: bits 7:4 (30_encoding.md R57, R58). -/
def addrField (b : Byte) : RegAddr := b.extractLsb' 4 4

/-- Field `op` of a first byte: bits 3:2. -/
def opField (b : Byte) : OpBits := b.extractLsb' 2 2

/-- Field `probe` of a first byte: bit 1. -/
def probeField (b : Byte) : Bool := b.getLsbD 1

/-- Bit 0 of a first byte: `data[8]` in format L, always 0 in format S. -/
def lowBitField (b : Byte) : Bool := b.getLsbD 0

/-- Field `data` of a long command: bit 0 of the first byte above the eight bits of the second (30_encoding.md R62). -/
def dataField (b1 b2 : Byte) : Data9 := b1.extractLsb' 0 1 ++ b2

/-- A short command's one byte, its address in hand (30_encoding.md R57). -/
def decodeShort (command : Byte → Instr) (b : Byte) (rest : List Byte) : Except Reject Instr :=
  match lowBitField b, rest with
  | true, _ => .error .shortBitZeroSet
  | false, [] => .ok (command ((addrField b).setWidth 8))
  | false, _ :: _ => .error .trailingBytes

/-- A long command's two bytes (30_encoding.md R58). -/
def decodeLong (command : Byte → Word16 → Instr) (b : Byte) (rest : List Byte) : Except Reject Instr :=
  match rest with
  | [] => .error .missingSecondByte
  | [b2] => .ok (command ((addrField b).setWidth 8) ((dataField b b2).setWidth 16))
  | _ :: _ :: _ => .error .trailingBytes

/-- The bytes of one wire command. The data bits of a read are don't-cares (30_encoding.md R68): they are read past. -/
def decodeWire (P : Params) : List Byte → Except Reject Instr
  | [] => .error .noBytes
  | b :: rest =>
    if probeField b = false then .error .probeBitClear
    else if opField b = P.opInc then decodeShort .cmdIncr b rest
    else if opField b = P.opDec then decodeShort .cmdDecr b rest
    else if opField b = P.opWrite then decodeLong .cmdWrite b rest
    else if opField b = P.opRead then decodeLong (fun addr _ => .cmdRead addr) b rest
    else .error .unknownOperation

/-- The instruction a frame holds. -/
def decode (P : Params) : Frame → Except Reject Instr
  | .host reqOp value flag => decodeHost reqOp value flag
  | .wire bytes => decodeWire P bytes

/-! ### The encoder -/

/-- A request without an operand. -/
def hostFrame (code : BitVec 5) : Frame := .host code 0#16 false

/-- A request with the flag operand. -/
def hostFlagFrame (code : BitVec 5) (flag : Bool) : Frame := .host code 0#16 flag

/-- A short command's byte (30_encoding.md R57). -/
def shortFrame (addr : Byte) (op : OpBits) : Frame :=
  .wire [Machine.enc8 addr (op.setWidth 8)]

/-- A long command's bytes, first byte first (30_encoding.md R58, 20_memory.md R38). -/
def longFrame (addr : Byte) (op : OpBits) (data : Word16) : Frame :=
  .wire [Machine.firstByte (Machine.enc16 addr (op.setWidth 8) data),
    Machine.secondByte (Machine.enc16 addr (op.setWidth 8) data)]

/-- The frame of an instruction: the codes of 30_encoding.md R78, the words of 40_codec.md R85 to R88. -/
def encode (P : Params) : Instr → Frame
  | .cmdWrite addr data => longFrame addr P.opWrite data
  | .cmdRead addr => longFrame addr P.opRead Machine.readDummy
  | .cmdIncr addr => shortFrame addr P.opInc
  | .cmdDecr addr => shortFrame addr P.opDec
  | .maxval => hostFrame 0#5
  | .incr => hostFrame 1#5
  | .decr => hostFrame 2#5
  | .set value => .host 3#5 value false
  | .get => hostFrame 4#5
  | .getv => hostFrame 5#5
  | .setta flag => hostFlagFrame 6#5 flag
  | .getta => hostFrame 7#5
  | .gettav => hostFrame 8#5
  | .settb flag => hostFlagFrame 9#5 flag
  | .gettb => hostFrame 10#5
  | .gettbv => hostFrame 11#5
  | .setw flag => hostFlagFrame 12#5 flag
  | .getw => hostFrame 13#5
  | .getwv => hostFrame 14#5
  | .setshdn flag => hostFlagFrame 15#5 flag
  | .getshdn => hostFrame 16#5
  | .getshdnv => hostFrame 17#5
  | .gethwshdn => hostFrame 18#5
  | .select => hostFrame 19#5
  | .deselect => hostFrame 20#5

/-! ### The opcode table's words -/

/-- The frame of a word of spec/opcode_table.json. A 16-bit word is a long command, its first byte the word's bits
15:8 (format L as the table numbers it). A 5-bit row is a request code, operands zero. The table's 8-bit rows (format S)
and its request codes, written in a whole byte, overlap as numbers (0x06 is CMD_INCR of address 0 and SETTA): a byte
that is an assigned request code is read as one, any other as a short command (DESIGN CHOICE, entry 8). -/
def tableFrame (nbits w : Nat) : Frame :=
  if 8 < nbits then .wire [BitVec.ofNat 8 (w / 256), BitVec.ofNat 8 w]
  else if nbits ≤ 5 ∨ w ≤ 20 then .host (BitVec.ofNat 5 w) 0#16 false
  else .wire [BitVec.ofNat 8 w]

/-- The instruction the decoder reads from a word of spec/opcode_table.json, whose `op` bits are those of REF. -/
def decodeTableWord (nbits w : Nat) : Option Instr :=
  match decode Machine.refParams (tableFrame nbits w) with
  | .ok i => some i
  | .error _ => none

end Sys2Proof
end

