-- ==== Sys2Proof/Machine/State.lean ====
section
/-! DEFINITION. The state, as plain data: the session (10_state.md R13), the other sessions on the bus (60_exceptions.md
R146), the bookkeeping of R13 (event history, sequencer position, line levels), the environment's coming answers, the
host's coming requests and the responses it has been given. -/

namespace Sys2Proof.Machine

/-- A bus-side event (20_memory.md R34). -/
inductive Event where
  /-- `BusMode(BUS_CFG)`. -/
  | busMode (c : BusCfg)
  /-- `Assert(cfg.select_id)`. -/
  | assertLine (id : SelectId)
  /-- `Deassert(cfg.select_id)`. -/
  | deassertLine (id : SelectId)
  /-- `Xfer(tx, rx)`: the byte the block sends, the byte the environment returns. -/
  | xfer (tx rx : Byte)
  deriving DecidableEq, Repr

/-- The level of a select line (10_state.md R20). -/
inductive Level where
  | deasserted
  | asserted
  deriving DecidableEq, Repr

/-- The sequencer position (10_state.md R21): `k` counts the completed calls of `TransferByte`; it reaches 4 between the
last exchange of a TCON update and its return, which R21's range 0 to 3 leaves out (DESIGN CHOICE, entry 10). -/
inductive Seq where
  | idle
  | busy (op : Instr) (k : Nat)
  deriving DecidableEq, Repr

/-- What an operation returns to the host (30_encoding.md R77). -/
inductive Response where
  /-- No result: `SELECT`, `DESELECT`. -/
  | none
  /-- `value`, 16 bits. -/
  | value (v : Word16)
  /-- `ok`, 1 bit. -/
  | ok (b : Bool)
  /-- `ok` and `value`, 16 bits. -/
  | okValue (b : Bool) (v : Word16)
  /-- `ok` and `flag`, 1 bit. -/
  | okFlag (b : Bool) (f : Bool)
  /-- `flag`, 1 bit. -/
  | flag (f : Bool)
  /-- `ok` and the 9-bit data of a long transfer (41_select_transfer.md R96): the result of a wire read. -/
  | okData (b : Bool) (d : Data9)
  deriving DecidableEq, Repr

/-- The parse phase of the reference responder (20_memory.md R53). -/
inductive RspPhase where
  | cmd
  | rd (a : RegAddr)
  | wr (a : RegAddr) (d8 : Bool)
  deriving DecidableEq, Repr

/-- The reference responder RSP (20_memory.md R53): a test fixture, no part of the block. `dual` says whether
`ADDR_WIPER1` is in `IMPL`; `full` is `RSP_MAX`. -/
structure Rsp where
  dual   : Bool
  full   : Data9
  wiper0 : Data9
  wiper1 : Data9
  tcon   : Data9
  status : Data9
  phase  : RspPhase
  deriving DecidableEq, Repr

/-- The environment of the bus (20_memory.md R33), as the state holds what it will answer. -/
inductive Env where
  /-- The oracle of R35: these bytes are its next answers; after the last, each answer is a free value. -/
  | oracle (script : List Byte)
  /-- The constant responder of R56. -/
  | constant (rx : Byte)
  /-- The reference responder of R53 to R55. -/
  | responder (r : Rsp)
  deriving DecidableEq, Repr

/-- The state of one Device Session (10_state.md R13), exactly. -/
structure Session where
  cfg      : SessionCfg
  maxValue : Word16
  nest     : Nat
  deriving DecidableEq, Repr

/-- The machine. -/
structure State where
  /-- The parameters of the step relation (00_scope.md R8, R10); no step writes them. -/
  par       : Params
  /-- The name of the session whose operation runs. -/
  current   : Nat
  /-- That session. -/
  sess      : Session
  /-- The other sessions on the bus, by name (60_exceptions.md R146). -/
  parked    : List (Nat × Session)
  /-- The asserted select lines of the bus, none twice: the levels of 10_state.md R20. -/
  lines     : List SelectId
  /-- The sequencer position (10_state.md R21). -/
  seq       : Seq
  /-- The event history `H`, oldest first (10_state.md R30). -/
  hist      : List Event
  /-- The environment (20_memory.md R33). -/
  env       : Env
  /-- The host's coming requests, the next first (60_exceptions.md R144). -/
  pending   : List Request
  /-- The responses returned to the host, oldest first (10_state.md R30). -/
  responses : List Response
  /-- The model's own: how many free values have been drawn (entry 5). -/
  draws     : Nat
  deriving DecidableEq, Repr

/-- How a step can stop with a fault: it cannot. The block has no fault mechanism (93_implementation_defined.md, 'The
treatments fault and stuck are not used'; 60_exceptions.md R138). -/
inductive Fault where
  deriving DecidableEq, Repr

/-- Why a step is refused. Every refusal is safe: the model says nothing about a run that contains one. -/
inductive Refusal where
  /-- Raised by exec for an instruction without a meaning yet. Safe. -/
  | notModelled (mnemonic : String)
  /-- `NestOverflow` (60_exceptions.md R143): raised by an operation that would take `nest` above `NEST_MAX`. Safe. -/
  | nestOverflow
  /-- `ReservedRequest` (60_exceptions.md R143): raised by step for a request code 21 to 31. Safe. -/
  | reservedRequest
  /-- Raised by step for wire bytes that are none of the four wire commands (30_encoding.md R63). Safe. -/
  | notAWireCommand (why : Reject)
  /-- Raised by an operation started while `seq` is not IDLE: no move of the model (60_exceptions.md R144). Safe. -/
  | busy
  /-- Raised by step for a request to a session that was never constructed. Safe. -/
  | noSuchSession
  deriving DecidableEq, Repr

/-- Construction of a session (70_reset_and_hazards.md R151, R152): the four options, the derived `max_value`, the
counter at 0. -/
def Session.construct (cfg : SessionCfg) : Session where
  cfg := cfg
  maxValue := maxValueOf cfg
  nest := 0

/-- The machine right after its one session is constructed with options `cfg` under parameters `P`
(70_reset_and_hazards.md R151 to R153; 10_state.md R31): no event is emitted, the line is deasserted, `seq` is IDLE,
no request has come, the environment is an oracle of which nothing is known. -/
def State.construct (P : Params) (cfg : SessionCfg) : State where
  par := P
  current := 0
  sess := Session.construct cfg
  parked := []
  lines := []
  seq := .idle
  hist := []
  env := .oracle []
  pending := []
  responses := []
  draws := 0

/-- The machine after reset, under REF and the construction options of `bootCfg` (entries 1, 2, 3, 9). -/
def State.reset : State := State.construct refParams bootCfg

end Sys2Proof.Machine
end

