-- ==== Sys2Proof/Machine/Responder.lean ====
section
/-! DEFINITION. The environment's side of the bus: the reference responder RSP (20_memory.md R53 to R55), and how an
environment answers a byte exchange and takes notice of the other bus events (R33, R35). -/

namespace Sys2Proof.Machine

/-- `IMPL`, the implemented addresses (20_memory.md R53). -/
def Rsp.implements (P : Params) (r : Rsp) (a : RegAddr) : Bool :=
  a == P.addrWiper0 || (r.dual && a == P.addrWiper1) || a == P.addrTcon || a == P.addrStatus

/-- `LEGAL(a, op)` (20_memory.md R54). -/
def Rsp.legal (P : Params) (r : Rsp) (a : RegAddr) (op : OpBits) : Bool :=
  r.implements P a &&
    (a == P.addrWiper0 || a == P.addrWiper1 ||
      (a == P.addrTcon && (op == P.opRead || op == P.opWrite)) ||
      (a == P.addrStatus && op == P.opRead))

/-- `reg[a]` (20_memory.md R53). -/
def Rsp.reg (P : Params) (r : Rsp) (a : RegAddr) : Data9 :=
  if a = P.addrWiper0 then r.wiper0
  else if a = P.addrWiper1 then r.wiper1
  else if a = P.addrTcon then r.tcon
  else r.status

/-- `reg[a] <- v`. -/
def Rsp.setReg (P : Params) (r : Rsp) (a : RegAddr) (v : Data9) : Rsp :=
  if a = P.addrWiper0 then { r with wiper0 := v }
  else if a = P.addrWiper1 then { r with wiper1 := v }
  else if a = P.addrTcon then { r with tcon := v }
  else { r with status := v }

/-- `ph <- p`. -/
def Rsp.setPhase (r : Rsp) (p : RspPhase) : Rsp := { r with phase := p }

/-- RSP's answer to a command byte (20_memory.md R55, `ph == CMD`). -/
def Rsp.command (P : Params) (r : Rsp) (tx : Byte) : Byte × Rsp :=
  let a := addrField tx
  let op := opField tx
  if r.legal P a op = false then (tx &&& 0xFD#8, r)
  else if op = P.opInc then
    (tx ||| 0x02#8, if r.reg P a < r.full then r.setReg P a (r.reg P a + 1) else r)
  else if op = P.opDec then
    (tx ||| 0x02#8, if 0 < r.reg P a then r.setReg P a (r.reg P a - 1) else r)
  else if op = P.opRead then
    ((tx &&& 0xFC#8) ||| 0x02#8 ||| (BitVec.ofBool ((r.reg P a).getLsbD 8)).setWidth 8, r.setPhase (.rd a))
  else (tx ||| 0x02#8, r.setPhase (.wr a (lowBitField tx)))

/-- RSP's step on `Xfer(tx, rx)` (20_memory.md R55): the byte it returns and its state after. -/
def Rsp.xfer (P : Params) (r : Rsp) (tx : Byte) : Byte × Rsp :=
  match r.phase with
  | .cmd => r.command P tx
  | .rd a => ((r.reg P a).extractLsb' 0 8, r.setPhase .cmd)
  | .wr a d8 => (0xFF#8, (r.setReg P a (BitVec.ofBool d8 ++ tx)).setPhase .cmd)

/-- The environment's answer to one byte exchange (20_memory.md R35), and the environment after it. `n` counts the
draws so far: past the end of an oracle's script the answer is a free value (entry 4). -/
def Env.answer (P : Params) (n : Nat) (tx : Byte) : Env → Byte × Env
  | .oracle [] => (Config.envReply n, .oracle [])
  | .oracle (rx :: rest) => (rx, .oracle rest)
  | .constant rx => (rx, .constant rx)
  | .responder r => ((r.xfer P tx).1, .responder (r.xfer P tx).2)

/-- What an event other than a byte exchange does to the environment (20_memory.md R55): RSP starts to parse anew at
each `Assert` and `Deassert`; nothing else is noticed. -/
def Env.notice (e : Event) : Env → Env
  | .oracle script => .oracle script
  | .constant rx => .constant rx
  | .responder r =>
    match e with
    | .busMode _ => .responder r
    | .assertLine _ => .responder (r.setPhase .cmd)
    | .deassertLine _ => .responder (r.setPhase .cmd)
    | .xfer _ _ => .responder r

end Sys2Proof.Machine
end

