-- ==== Sys2Proof/Machine/Ops.lean ====
section
/-! DEFINITION. The shared operations: events, byte exchanges, draws, the critical section (41_select_transfer.md R91, R92),
the two transfer primitives (R95, R96), register reads and writes (20_memory.md R36, R37), the release path of a failure
(60_exceptions.md R138 to R140), and the frame of one host operation (R143, R144). -/

namespace Sys2Proof.Machine

/-- The asserted lines after an event (10_state.md R20). -/
def linesAfter (e : Event) (lines : List SelectId) : List SelectId :=
  match e with
  | .assertLine id => if id ∈ lines then lines else id :: lines
  | .deassertLine id => lines.filter (fun l => l != id)
  | .busMode _ => lines
  | .xfer _ _ => lines

/-- The level of a select line of the bus. -/
def State.lineLevel (s : State) (id : SelectId) : Level :=
  if id ∈ s.lines then .asserted else .deasserted

/-- `cs`, the level of the session's own line (10_state.md R20). -/
def State.cs (s : State) : Level := s.lineLevel s.sess.cfg.selectId

/-- `emit E` (00_scope.md R12) for an event that brings no byte back: it is appended to the history, the environment
takes notice, the line levels follow. -/
def State.emit (s : State) (e : Event) : State :=
  { s with hist := s.hist ++ [e], env := s.env.notice e, lines := linesAfter e s.lines }

/-- `seq` after one more completed call of `TransferByte` (10_state.md R21). DESIGN CHOICE (entry 10): R21 gives `k` only 0
to 3 and names no position between the fourth exchange of a TCON update and its return; there `k` counts on to 4. -/
def Seq.bump : Seq → Seq
  | .idle => .idle
  | .busy op k => .busy op (k + 1)

/-- Whether `seq = IDLE`. -/
def Seq.isIdle : Seq → Bool
  | .idle => true
  | .busy _ _ => false

/-- `rx <- TransferByte(tx)` (20_memory.md R35): the environment's answer, and the state with `Xfer(tx, rx)` emitted. -/
def transferByte (tx : Byte) (s : State) : Byte × State :=
  ((s.env.answer s.par s.draws tx).1,
    { s with
      hist := s.hist ++ [.xfer tx (s.env.answer s.par s.draws tx).1]
      env := (s.env.answer s.par s.draws tx).2
      draws := s.draws + 1
      seq := s.seq.bump })

/-- A draw has been made (00_scope.md R12). -/
def State.drawn (s : State) : State := { s with draws := s.draws + 1 }

/-- The draw `any_9`. -/
def draw9 (s : State) : Data9 × State := (Config.any9 s.draws, s.drawn)

/-- The draw `any_16`. -/
def draw16 (s : State) : Word16 × State := (Config.any16 s.draws, s.drawn)

/-- The draw `any_bool`. -/
def drawBool (s : State) : Bool × State := (Config.anyBool s.draws, s.drawn)

/-- `nest <- v`. -/
def State.setNest (s : State) (v : Nat) : State := { s with sess := { s.sess with nest := v } }

/-- `SELECT` (41_select_transfer.md R91) where it is not refused: the refusal at `NEST_MAX` is taken at the operation's
entry, as 60_exceptions.md R143 says is the same. -/
def selectLine (s : State) : State :=
  if s.sess.nest + 1 = 1 then
    ((s.setNest (s.sess.nest + 1)).emit (.busMode s.par.busCfg)).emit (.assertLine s.sess.cfg.selectId)
  else s.setNest (s.sess.nest + 1)

/-- `DESELECT` (41_select_transfer.md R92), with its floor at 0 (D6). -/
def deselectLine (s : State) : State :=
  if s.sess.nest = 0 then s
  else if s.sess.nest - 1 = 0 then (s.setNest (s.sess.nest - 1)).emit (.deassertLine s.sess.cfg.selectId)
  else s.setNest (s.sess.nest - 1)

/-- What a failure does where it is detected (60_exceptions.md R138 to R140): the release path, one `DESELECT` for the
`SELECT` the failing rule made, and nothing else; no state is saved, no control is transferred, nothing is latched. The
caller then returns `ok = false`. -/
def failRelease (s : State) : State := deselectLine s

/-- `XFER8`, the short transfer (41_select_transfer.md R95). -/
def xfer8 (addr : Byte) (op : OpBits) (s : State) : Bool × State :=
  let rx := transferByte (enc8 addr (op.setWidth 8)) (selectLine s)
  (isValid rx.1, if isValid rx.1 then deselectLine rx.2 else failRelease rx.2)

/-- `XFER16`, the long transfer (41_select_transfer.md R96): `ok` and the data, then the state. -/
def xfer16 (addr : Byte) (op : OpBits) (data : Word16) (s : State) : (Bool × Data9) × State :=
  let w := enc16 addr (op.setWidth 8) data
  let rx1 := transferByte (firstByte w) (selectLine s)
  if isValid rx1.1 then
    let rx2 := transferByte (secondByte w) rx1.2
    ((true, decData rx1.1 rx2.1), deselectLine rx2.2)
  else
    let any := draw9 (failRelease rx1.2)
    ((false, any.1), any.2)

/-- `MemRead(addr, 9)` (20_memory.md R36). -/
def memRead (addr : Byte) (s : State) : (Bool × Data9) × State :=
  xfer16 addr s.par.opRead readDummy s

/-- `MemWrite(addr, 9, v)` (20_memory.md R37). -/
def memWrite (addr : Byte) (v : Word16) (s : State) : Bool × State :=
  let w := xfer16 addr s.par.opWrite v s
  (w.1.1, w.2)

/-- Whether an operation that makes `depth` nested `SELECT`s stays within `NEST_MAX` (60_exceptions.md R143); one that
makes none always does. -/
def State.hasRoom (s : State) (depth : Nat) : Bool :=
  depth == 0 || Nat.ble (s.sess.nest + depth) s.par.nestMax

/-- The operation starts: `seq <- BUSY(i, 0)` (10_state.md R21). -/
def State.start (s : State) (i : Instr) : State := { s with seq := .busy i 0 }

/-- The operation returns its results to the host and `seq` is IDLE again (10_state.md R21, 30_encoding.md R77). -/
def State.finish (s : State) (r : Response) : State :=
  { s with seq := .idle, responses := s.responses ++ [r] }

/-- One operation, whole: accepted only when `seq = IDLE` (60_exceptions.md R144), refused where its `depth` nested
`SELECT`s would pass `NEST_MAX` (R143), else run to completion. -/
def perform (i : Instr) (depth : Nat) (body : State → Response × State) (s : State) :
    Host.Outcome State Fault Refusal :=
  if s.seq.isIdle then
    if s.hasRoom depth then
      .next ((body (s.start i)).2.finish (body (s.start i)).1)
    else .refused .nestOverflow
  else .refused .busy

/-- The session named `t` among the parked ones, and the list with `mine` in its place. -/
def exchangeSession (t : Nat) (mine : Nat × Session) :
    List (Nat × Session) → Option (Session × List (Nat × Session))
  | [] => none
  | p :: ps =>
    if p.1 = t then some (p.2, mine :: ps)
    else (exchangeSession t mine ps).map fun found => (found.1, p :: found.2)

/-- The state as an operation of the session named `t` finds it (60_exceptions.md R146): that session is the current
one, and the one that was current is parked in its place. Nothing of any session changes. -/
def State.address (s : State) (t : Nat) : Option State :=
  if t = s.current then some s
  else (exchangeSession t (s.current, s.sess) s.parked).map fun found =>
    { s with current := t, sess := found.1, parked := found.2 }

end Sys2Proof.Machine
end

