-- ==== Sys2Proof/Machine/Operands.lean ====
section
/-! DEFINITION. How an operation resolves its operands: the wiper address and the TCON mask of the session's unit
(42_wiper.md R101, 43_tcon_status.md R111), and the clamp of `SET` (42_wiper.md R105). -/

namespace Sys2Proof.Machine

/-- `WIPER_ADDR` (42_wiper.md R101). -/
def wiperAddr (P : Params) (unit : UnitIndex) : RegAddr :=
  match unit with
  | .unit0 => P.addrWiper0
  | .unit1 => P.addrWiper1

/-- A register address as the codec takes it. -/
def busAddr (a : RegAddr) : Byte := a.setWidth 8

/-- `UNIT1_SHIFT` (00_scope.md R9). -/
def unit1Shift : Nat := 4

/-- `UNIT_MASK` (43_tcon_status.md R111), 9 bits. -/
def unitMask (unit : UnitIndex) (mask : FlagMask) : Data9 :=
  match unit with
  | .unit0 => mask.setWidth 9
  | .unit1 => mask.setWidth 9 <<< unit1Shift

/-- The clamp of `SET`: `min(value, max_value)`, unsigned (42_wiper.md R105, R109). -/
def clampValue (value maxValue : Word16) : Word16 :=
  if value.toNat ≤ maxValue.toNat then value else maxValue

end Sys2Proof.Machine
end

