-- ==== Sys2Proof/Machine/Flags.lean ====
section
/-! DEFINITION. Flags and sentinels: the test of a register bit, the new TCON value of a read-modify-write
(43_tcon_status.md R113), and what a convenience form returns (42_wiper.md R107, 43_tcon_status.md R121). -/

namespace Sys2Proof.Machine

/-- `(cur & m) != 0` (43_tcon_status.md R112, R128). -/
def flagOf (cur m : Data9) : Bool := (cur &&& m) != 0#9

/-- `TCON_RESERVED_BIT` (00_scope.md R9). -/
def tconReservedBit : Data9 := 0x100#9

/-- Step 4 of the TCON read-modify-write (43_tcon_status.md R113): the mask set or cleared, the complement taken at 9
bits, and bit 8 forced to 1 (conflict C2). -/
def tconNew (cur m : Data9) (value : Bool) : Data9 :=
  (if value then cur ||| m else cur &&& ~~~m) ||| tconReservedBit

/-- `GET_SENTINEL` (00_scope.md R9). -/
def getSentinel : Word16 := 0xFFFF#16

/-- `CONV(G)` (43_tcon_status.md R121): the flag of a two-result getter, or a draw where it failed. -/
def convenience (g : (Bool × Bool) × State) : Bool × State :=
  if g.1.1 then (g.1.2, g.2) else drawBool g.2

end Sys2Proof.Machine
end

