-- ==== Sys2Proof/Machine/Section.lean ====
section
/-! DEFINITION. The critical-section operations as host requests (41_select_transfer.md R91, R92). -/

namespace Sys2Proof.Machine

/-- `SELECT` (41_select_transfer.md R91). -/
def execSelect (s : State) : Host.Outcome State Fault Refusal :=
  perform .select 1 (fun s => (.none, selectLine s)) s

/-- `DESELECT` (41_select_transfer.md R92). -/
def execDeselect (s : State) : Host.Outcome State Fault Refusal :=
  perform .deselect 0 (fun s => (.none, deselectLine s)) s

end Sys2Proof.Machine
end

