-- ==== Sys2Proof/Machine/Status.lean ====
section
/-! DEFINITION. The status-register operation (43_tcon_status.md R128). -/

namespace Sys2Proof.Machine

/-- The results of `get_hardware_shutdown_status` (43_tcon_status.md R128): the status bit, not inverted (D20); on
failure the flag is a draw. -/
def getHwShutdown (s : State) : (Bool × Bool) × State :=
  let rd := memRead (busAddr s.par.addrStatus) s
  if rd.1.1 then ((true, flagOf rd.1.2 s.par.maskStatusShdn), rd.2)
  else
    let any := drawBool rd.2
    ((false, any.1), any.2)

/-- `GETHWSHDN` (43_tcon_status.md R128). -/
def execGethwshdn (s : State) : Host.Outcome State Fault Refusal :=
  perform .gethwshdn 1
    (fun s => (.okFlag (getHwShutdown s).1.1 (getHwShutdown s).1.2, (getHwShutdown s).2)) s

end Sys2Proof.Machine
end

