-- ==== Sys2Proof/Machine/Tcon.lean ====
section
/-! DEFINITION. The TCON operations: the two internal primitives (43_tcon_status.md R112, R113), the setters, getters and
convenience getters of the connection flags (R115 to R124) and of software shutdown (R125 to R127). -/

namespace Sys2Proof.Machine

/-- `GETTCON(mask)` (43_tcon_status.md R112): `ok` and the raw stored bit; on failure the flag is a draw. -/
def getTcon (mask : FlagMask) (s : State) : (Bool × Bool) × State :=
  let rd := memRead (busAddr s.par.addrTcon) s
  if rd.1.1 then ((true, flagOf rd.1.2 (unitMask s.sess.cfg.unit mask)), rd.2)
  else
    let any := drawBool rd.2
    ((false, any.1), any.2)

/-- `SETTCON(mask, value)` (43_tcon_status.md R113), its six steps. -/
def setTcon (mask : FlagMask) (value : Bool) (s : State) : Bool × State :=
  let s1 := selectLine s
  let m := unitMask s1.sess.cfg.unit mask
  let rd := memRead (busAddr s1.par.addrTcon) s1
  if rd.1.1 then
    let wr := memWrite (busAddr s1.par.addrTcon) ((tconNew rd.1.2 m value).setWidth 16) rd.2
    (wr.1, deselectLine wr.2)
  else (false, failRelease rd.2)

/-- `GETSHDN`'s results (43_tcon_status.md R126): the stored bit inverted; on failure the flag is a draw. -/
def getShutdown (s : State) : (Bool × Bool) × State :=
  let g := getTcon s.par.maskShdn s
  if g.1.1 then ((true, !g.1.2), g.2)
  else
    let any := drawBool g.2
    ((false, any.1), any.2)

/-- `SETTA(flag)` (43_tcon_status.md R115). -/
def execSetta (flag : Bool) (s : State) : Host.Outcome State Fault Refusal :=
  perform (.setta flag) 2
    (fun s => (.ok (setTcon s.par.maskTermA flag s).1, (setTcon s.par.maskTermA flag s).2)) s

/-- `GETTA` (43_tcon_status.md R116). -/
def execGetta (s : State) : Host.Outcome State Fault Refusal :=
  perform .getta 1
    (fun s => (.okFlag (getTcon s.par.maskTermA s).1.1 (getTcon s.par.maskTermA s).1.2,
      (getTcon s.par.maskTermA s).2)) s

/-- `GETTAV` (43_tcon_status.md R122). -/
def execGettav (s : State) : Host.Outcome State Fault Refusal :=
  perform .gettav 1
    (fun s => (.flag (convenience (getTcon s.par.maskTermA s)).1,
      (convenience (getTcon s.par.maskTermA s)).2)) s

/-- `SETTB(flag)` (43_tcon_status.md R117). -/
def execSettb (flag : Bool) (s : State) : Host.Outcome State Fault Refusal :=
  perform (.settb flag) 2
    (fun s => (.ok (setTcon s.par.maskTermB flag s).1, (setTcon s.par.maskTermB flag s).2)) s

/-- `GETTB` (43_tcon_status.md R118). -/
def execGettb (s : State) : Host.Outcome State Fault Refusal :=
  perform .gettb 1
    (fun s => (.okFlag (getTcon s.par.maskTermB s).1.1 (getTcon s.par.maskTermB s).1.2,
      (getTcon s.par.maskTermB s).2)) s

/-- `GETTBV` (43_tcon_status.md R123). -/
def execGettbv (s : State) : Host.Outcome State Fault Refusal :=
  perform .gettbv 1
    (fun s => (.flag (convenience (getTcon s.par.maskTermB s)).1,
      (convenience (getTcon s.par.maskTermB s)).2)) s

/-- `SETW(flag)` (43_tcon_status.md R119). -/
def execSetw (flag : Bool) (s : State) : Host.Outcome State Fault Refusal :=
  perform (.setw flag) 2
    (fun s => (.ok (setTcon s.par.maskWiper flag s).1, (setTcon s.par.maskWiper flag s).2)) s

/-- `GETW` (43_tcon_status.md R120). -/
def execGetw (s : State) : Host.Outcome State Fault Refusal :=
  perform .getw 1
    (fun s => (.okFlag (getTcon s.par.maskWiper s).1.1 (getTcon s.par.maskWiper s).1.2,
      (getTcon s.par.maskWiper s).2)) s

/-- `GETWV` (43_tcon_status.md R124). -/
def execGetwv (s : State) : Host.Outcome State Fault Refusal :=
  perform .getwv 1
    (fun s => (.flag (convenience (getTcon s.par.maskWiper s)).1,
      (convenience (getTcon s.par.maskWiper s)).2)) s

/-- `SETSHDN(shutdown)` (43_tcon_status.md R125): the stored bit means 'not shut down'. -/
def execSetshdn (shutdown : Bool) (s : State) : Host.Outcome State Fault Refusal :=
  perform (.setshdn shutdown) 2
    (fun s => (.ok (setTcon s.par.maskShdn (!shutdown) s).1, (setTcon s.par.maskShdn (!shutdown) s).2)) s

/-- `GETSHDN` (43_tcon_status.md R126). -/
def execGetshdn (s : State) : Host.Outcome State Fault Refusal :=
  perform .getshdn 1
    (fun s => (.okFlag (getShutdown s).1.1 (getShutdown s).1.2, (getShutdown s).2)) s

/-- `GETSHDNV` (43_tcon_status.md R127). -/
def execGetshdnv (s : State) : Host.Outcome State Fault Refusal :=
  perform .getshdnv 1
    (fun s => (.flag (convenience (getShutdown s)).1, (convenience (getShutdown s)).2)) s

end Sys2Proof.Machine
end

