-- ==== Sys2Proof/Machine/Wiper.lean ====
section
/-! DEFINITION. The wiper operations (42_wiper.md R102 to R107). -/

namespace Sys2Proof.Machine

/-- The address of the session's wiper, as the codec takes it (42_wiper.md R101). -/
def State.wiper (s : State) : Byte := busAddr (wiperAddr s.par s.sess.cfg.unit)

/-- `MAXVAL` (42_wiper.md R102): it does not reach the bus. -/
def execMaxval (s : State) : Host.Outcome State Fault Refusal :=
  perform .maxval 0 (fun s => (.value s.sess.maxValue, s)) s

/-- `INCR` (42_wiper.md R103): one short transfer, and no clamp (R108). -/
def execIncr (s : State) : Host.Outcome State Fault Refusal :=
  perform .incr 1 (fun s => ((.ok (xfer8 s.wiper s.par.opInc s).1), (xfer8 s.wiper s.par.opInc s).2)) s

/-- `DECR` (42_wiper.md R104): one short transfer, and no clamp (R108). -/
def execDecr (s : State) : Host.Outcome State Fault Refusal :=
  perform .decr 1 (fun s => ((.ok (xfer8 s.wiper s.par.opDec s).1), (xfer8 s.wiper s.par.opDec s).2)) s

/-- The transfer of `SET(value)` (42_wiper.md R105): the clamped value's bits 8:0 are written to the wiper. -/
def setWiper (value : Word16) (s : State) : Bool × State :=
  memWrite s.wiper (((clampValue value s.sess.maxValue).setWidth 9).setWidth 16) s

/-- `SET(value)` (42_wiper.md R105). -/
def execSet (value : Word16) (s : State) : Host.Outcome State Fault Refusal :=
  perform (.set value) 1 (fun s => (.ok (setWiper value s).1, (setWiper value s).2)) s

/-- The two-result form of `get()` (42_wiper.md R106): on failure the value is a draw. -/
def getWiper (s : State) : (Bool × Word16) × State :=
  let rd := memRead s.wiper s
  if rd.1.1 then ((true, rd.1.2.setWidth 16), rd.2)
  else
    let any := draw16 rd.2
    ((false, any.1), any.2)

/-- `GET` (42_wiper.md R106). -/
def execGet (s : State) : Host.Outcome State Fault Refusal :=
  perform .get 1 (fun s => (.okValue (getWiper s).1.1 (getWiper s).1.2, (getWiper s).2)) s

/-- `GETV` (42_wiper.md R107): `GET`'s value, or the sentinel where it failed. -/
def execGetv (s : State) : Host.Outcome State Fault Refusal :=
  perform .getv 1
    (fun s => (.value (if (getWiper s).1.1 then (getWiper s).1.2 else getSentinel), (getWiper s).2)) s

end Sys2Proof.Machine
end

