-- ==== Sys2Proof/Machine/Wire.lean ====
section
/-! DEFINITION. The wire commands (40_codec.md R85 to R88), each the one transfer that sends it. The host has no request
code for a transfer (30_encoding.md R78); run as an instruction, a wire command is the session's transfer primitive run
by itself, as vectors V-S9 to V-S17 run it (DESIGN CHOICE, entry 7). -/

namespace Sys2Proof.Machine

/-- `CMD_WRITE addr, data` (40_codec.md R85; 20_memory.md R37): the returned data is decoded and ignored. -/
def execCmdWrite (addr : Byte) (data : Word16) (s : State) : Host.Outcome State Fault Refusal :=
  perform (.cmdWrite addr data) 1 (fun s => ((.ok (memWrite addr data s).1), (memWrite addr data s).2)) s

/-- `CMD_READ addr` (40_codec.md R86; 20_memory.md R36). -/
def execCmdRead (addr : Byte) (s : State) : Host.Outcome State Fault Refusal :=
  perform (.cmdRead addr) 1
    (fun s => ((.okData (memRead addr s).1.1 (memRead addr s).1.2), (memRead addr s).2)) s

/-- `CMD_INCR addr` (40_codec.md R87; 41_select_transfer.md R95). -/
def execCmdIncr (addr : Byte) (s : State) : Host.Outcome State Fault Refusal :=
  perform (.cmdIncr addr) 1 (fun s => ((.ok (xfer8 addr s.par.opInc s).1), (xfer8 addr s.par.opInc s).2)) s

/-- `CMD_DECR addr` (40_codec.md R88; 41_select_transfer.md R95). -/
def execCmdDecr (addr : Byte) (s : State) : Host.Outcome State Fault Refusal :=
  perform (.cmdDecr addr) 1 (fun s => ((.ok (xfer8 addr s.par.opDec s).1), (xfer8 addr s.par.opDec s).2)) s

end Sys2Proof.Machine
end

