-- ==== Sys2Proof/Machine/Dispatch.lean ====
section
/-! DEFINITION. One arm for each instruction. -/

namespace Sys2Proof.Machine

def exec (i : Instr) (s : State) : Host.Outcome State Fault Refusal :=
  match i with
  | .cmdWrite addr data => Sys2Proof.Machine.execCmdWrite addr data s
  | .cmdRead addr => Sys2Proof.Machine.execCmdRead addr s
  | .cmdIncr addr => Sys2Proof.Machine.execCmdIncr addr s
  | .cmdDecr addr => Sys2Proof.Machine.execCmdDecr addr s
  | .maxval => Sys2Proof.Machine.execMaxval s
  | .incr => Sys2Proof.Machine.execIncr s
  | .decr => Sys2Proof.Machine.execDecr s
  | .set value => Sys2Proof.Machine.execSet value s
  | .get => Sys2Proof.Machine.execGet s
  | .getv => Sys2Proof.Machine.execGetv s
  | .setta flag => Sys2Proof.Machine.execSetta flag s
  | .getta => Sys2Proof.Machine.execGetta s
  | .gettav => Sys2Proof.Machine.execGettav s
  | .settb flag => Sys2Proof.Machine.execSettb flag s
  | .gettb => Sys2Proof.Machine.execGettb s
  | .gettbv => Sys2Proof.Machine.execGettbv s
  | .setw flag => Sys2Proof.Machine.execSetw flag s
  | .getw => Sys2Proof.Machine.execGetw s
  | .getwv => Sys2Proof.Machine.execGetwv s
  | .setshdn shutdown => Sys2Proof.Machine.execSetshdn shutdown s
  | .getshdn => Sys2Proof.Machine.execGetshdn s
  | .getshdnv => Sys2Proof.Machine.execGetshdnv s
  | .gethwshdn => Sys2Proof.Machine.execGethwshdn s
  | .select => Sys2Proof.Machine.execSelect s
  | .deselect => Sys2Proof.Machine.execDeselect s

end Sys2Proof.Machine
end

