-- ==== Sys2Proof/Machine/Fetch.lean ====
section
/-! DEFINITION. Where a step finds its next instruction: the host's coming requests, the first of them made to a session
of the bus (60_exceptions.md R144, R146; 30_encoding.md R77). -/

namespace Sys2Proof.Machine

/-- The refusal for a frame that is no instruction (60_exceptions.md R143; 30_encoding.md R63). -/
def refusalOf : Reject → Refusal
  | .reservedRequest _ => .reservedRequest
  | .noBytes => .notAWireCommand .noBytes
  | .probeBitClear => .notAWireCommand .probeBitClear
  | .shortBitZeroSet => .notAWireCommand .shortBitZeroSet
  | .missingSecondByte => .notAWireCommand .missingSecondByte
  | .trailingBytes => .notAWireCommand .trailingBytes
  | .unknownOperation => .notAWireCommand .unknownOperation

/-- What a step is to do next. -/
inductive Fetched where
  /-- The host has made no request: the block waits (70_reset_and_hazards.md R152). -/
  | nothing
  /-- The instruction `i`, to run in state `s`: the request taken, its session the current one. -/
  | run (i : Instr) (s : State)
  /-- The request is refused. -/
  | refuse (r : Refusal)

/-- The next request, taken and decoded. -/
def fetch (s : State) : Fetched :=
  match s.pending with
  | [] => .nothing
  | q :: rest =>
    match s.address q.session with
    | none => .refuse .noSuchSession
    | some s1 =>
      match decode s.par q.frame with
      | .ok i => .run i { s1 with pending := rest }
      | .error why => .refuse (refusalOf why)

/-- The request made next, before those that wait: to the session that is current. -/
def State.requestNext (s : State) (f : Frame) : State :=
  { s with pending := { session := s.current, frame := f } :: s.pending }

end Sys2Proof.Machine
end

