-- ==== Sys2Proof/Machine/Step.lean ====
section
/-! DEFINITION. One step: the host's next request, run to completion. -/

namespace Sys2Proof.Machine

/-- One step. With no request the block waits and nothing changes (70_reset_and_hazards.md R152); else the request is
taken, decoded and run whole (60_exceptions.md R144: every operation is blocking). -/
def step (s : State) : Host.Outcome State Fault Refusal :=
  match fetch s with
  | .nothing => .next s
  | .run i s1 => exec i s1
  | .refuse r => .refused r

/-- `s` with the instruction of a table word as the host's very next request (entry 6). -/
def State.withFetchWord (s : State) (nbits w : Nat) : State := s.requestNext (tableFrame nbits w)

end Sys2Proof.Machine
end

