-- ==== Sys2Proof/Safety.lean ====
section
/-! DEFINITION. The terms claims use: what an operation leaves behind, the invariant of the machine, the framing of the
bus, the commands a history holds, and the named premises on the environment (20_memory.md R45 to R52). -/

namespace Sys2Proof.Machine

/-! ### Running an operation -/

/-- The operation is accepted and not refused: `seq = IDLE` (60_exceptions.md R144) and `nest + depth` stays within
`NEST_MAX` (R143). -/
def State.Ready (s : State) (depth : Nat) : Prop :=
  s.seq = .idle ∧ s.sess.nest + depth ≤ s.par.nestMax

/-- The invariant of 10_state.md R20 for the current session: `cs == asserted` iff `nest > 0`. -/
def State.LineAgrees (s : State) : Prop := s.cs = .asserted ↔ 0 < s.sess.nest

/-- How many nested `SELECT`s an operation makes (60_exceptions.md R143): 1 for `SELECT` and what is built on one
transfer, 2 for what is built on `SETTCON`, 0 for `MAXVAL` and `DESELECT`. -/
def depthOf : Instr → Nat
  | .cmdWrite _ _ => 1
  | .cmdRead _ => 1
  | .cmdIncr _ => 1
  | .cmdDecr _ => 1
  | .maxval => 0
  | .incr => 1
  | .decr => 1
  | .set _ => 1
  | .get => 1
  | .getv => 1
  | .setta _ => 2
  | .getta => 1
  | .gettav => 1
  | .settb _ => 2
  | .gettb => 1
  | .gettbv => 1
  | .setw _ => 2
  | .getw => 1
  | .getwv => 1
  | .setshdn _ => 2
  | .getshdn => 1
  | .getshdnv => 1
  | .gethwshdn => 1
  | .select => 1
  | .deselect => 0

/-- Whether the instruction is a host operation (30_encoding.md R78) and not a wire command (R63). -/
def isHostOp : Instr → Bool
  | .cmdWrite _ _ => false
  | .cmdRead _ => false
  | .cmdIncr _ => false
  | .cmdDecr _ => false
  | .maxval => true
  | .incr => true
  | .decr => true
  | .set _ => true
  | .get => true
  | .getv => true
  | .setta _ => true
  | .getta => true
  | .gettav => true
  | .settb _ => true
  | .gettb => true
  | .gettbv => true
  | .setw _ => true
  | .getw => true
  | .getwv => true
  | .setshdn _ => true
  | .getshdn => true
  | .getshdnv => true
  | .gethwshdn => true
  | .select => true
  | .deselect => true

/-- The state an operation leaves that emitted `evs`, returned `r` to the host, left the environment as `env'` and the
count of draws at `d`: everything else, the session first of all, is as it was in `s`. -/
def State.after (s : State) (evs : List Event) (env' : Env) (d : Nat) (r : Response) : State :=
  { s with
    hist := s.hist ++ evs
    env := env'
    draws := d
    responses := s.responses ++ [r] }

/-- The events of a transfer or of a TCON update as the bus sees them (41_select_transfer.md R97): framed by `BusMode`,
`Assert` and `Deassert` when the session is not selected yet, bare when it is. `BusMode` before `Assert` is the spec's
decision D23 (entry 17). -/
def State.framed (s : State) (evs : List Event) : List Event :=
  if s.sess.nest = 0 then
    [.busMode s.par.busCfg, .assertLine s.sess.cfg.selectId] ++ evs ++ [.deassertLine s.sess.cfg.selectId]
  else evs

/-- The environment `e` answers `rxs`, one after the other, and is `e'` after it. An oracle answers its script first,
and anything at all past its end; the constant responder always the same byte; the reference responder answers by its
own rule (20_memory.md R55) and stays one. -/
def Env.Supplies (e : Env) (rxs : List Byte) (e' : Env) : Prop :=
  match e with
  | .oracle script =>
    rxs.take script.length = script.take rxs.length ∧ e' = .oracle (script.drop rxs.length)
  | .constant rx => rxs = List.replicate rxs.length rx ∧ e' = .constant rx
  | .responder _ => ∃ r', e' = .responder r'

/-- Operations run one after the other on one session, stopping at the first that does not answer a next state. -/
def runAll : List Instr → State → Host.Outcome State Fault Refusal
  | [], s => .next s
  | i :: rest, s =>
    match exec i s with
    | .next t => runAll rest t
    | .fault r => .fault r
    | .refused r => .refused r

/-- The shape of each operation's response: of a host operation, that of the second table of 30_encoding.md R77; of a wire
command, which the table does not list, the model's choice (entry 7). -/
def ShapeOf : Instr → Response → Prop
  | .cmdWrite _ _, r => ∃ b, r = .ok b
  | .cmdRead _, r => ∃ b d, r = .okData b d
  | .cmdIncr _, r => ∃ b, r = .ok b
  | .cmdDecr _, r => ∃ b, r = .ok b
  | .maxval, r => ∃ v, r = .value v
  | .incr, r => ∃ b, r = .ok b
  | .decr, r => ∃ b, r = .ok b
  | .set _, r => ∃ b, r = .ok b
  | .get, r => ∃ b v, r = .okValue b v
  | .getv, r => ∃ v, r = .value v
  | .setta _, r => ∃ b, r = .ok b
  | .getta, r => ∃ b f, r = .okFlag b f
  | .gettav, r => ∃ f, r = .flag f
  | .settb _, r => ∃ b, r = .ok b
  | .gettb, r => ∃ b f, r = .okFlag b f
  | .gettbv, r => ∃ f, r = .flag f
  | .setw _, r => ∃ b, r = .ok b
  | .getw, r => ∃ b f, r = .okFlag b f
  | .getwv, r => ∃ f, r = .flag f
  | .setshdn _, r => ∃ b, r = .ok b
  | .getshdn, r => ∃ b f, r = .okFlag b f
  | .getshdnv, r => ∃ f, r = .flag f
  | .gethwshdn, r => ∃ b f, r = .okFlag b f
  | .select, r => r = .none
  | .deselect, r => r = .none

/-! ### The invariant -/

/-- Every session on the bus, by name. -/
def State.sessions (s : State) : List (Nat × Session) := (s.current, s.sess) :: s.parked

/-- A session as construction and the operations keep it: `max_value` is the one its configuration gives
(10_state.md R18) and `nest` is in its range (R19). -/
def Session.Ok (P : Params) (x : Session) : Prop :=
  x.maxValue = maxValueOf x.cfg ∧ x.nest ≤ P.nestMax

/-- The invariant every step keeps. -/
structure State.Inv (s : State) : Prop where
  /-- The parameters meet their constraints (00_scope.md R8, R10). -/
  params : s.par.Ok
  /-- No operation is in progress between steps (10_state.md R21). -/
  idle : s.seq = .idle
  /-- Every session is one that construction and the operations make (R18, R19). -/
  sessionsOk : ∀ p ∈ s.sessions, p.2.Ok s.par
  /-- No two sessions have one name. -/
  names : (s.sessions.map fun p => p.1).Nodup
  /-- Every session owns its select line exclusively (10_state.md R14). -/
  owners : (s.sessions.map fun p => p.2.cfg.selectId).Nodup
  /-- No line is listed twice. -/
  linesOnce : s.lines.Nodup
  /-- `cs == asserted` iff `nest > 0`, for every session (10_state.md R20). -/
  linesAgree : ∀ p ∈ s.sessions, s.lineLevel p.2.cfg.selectId = .asserted ↔ 0 < p.2.nest

/-! ### The framing of the bus -/

/-- Where the bus stands between events. -/
inductive BusPhase where
  /-- No line is asserted and the bus is not yet configured. -/
  | free
  /-- The bus has just been configured. -/
  | configured
  /-- The line `id` is asserted. -/
  | held (id : SelectId)
  deriving DecidableEq, Repr

/-- What may come next on a well-framed bus (41_select_transfer.md R93, laws N2 and N4; R97; 70_reset_and_hazards.md R155):
`BusMode(BUS_CFG)` only when no line is asserted, `Assert` only right after it, byte exchanges only while a line is
asserted, `Deassert` only of that line. -/
def BusPhase.next (c : BusCfg) : BusPhase → Event → Option BusPhase
  | .free, .busMode c' => if c' = c then some .configured else none
  | .free, .assertLine _ => none
  | .free, .deassertLine _ => none
  | .free, .xfer _ _ => none
  | .configured, .busMode _ => none
  | .configured, .assertLine id => some (.held id)
  | .configured, .deassertLine _ => none
  | .configured, .xfer _ _ => none
  | .held _, .busMode _ => none
  | .held _, .assertLine _ => none
  | .held id, .deassertLine id' => if id' = id then some .free else none
  | .held id, .xfer _ _ => some (.held id)

/-- Where the bus stands after a history, if every event of it was allowed where it came. -/
def busPhaseFrom (c : BusCfg) : BusPhase → List Event → Option BusPhase
  | p, [] => some p
  | p, e :: rest =>
    match p.next c e with
    | some q => busPhaseFrom c q rest
    | none => none

/-- The whole history is well framed, and the bus stands as the current session's counter says. -/
def State.WellFramed (s : State) : Prop :=
  busPhaseFrom s.par.busCfg .free s.hist =
    some (if s.sess.nest = 0 then .free else .held s.sess.cfg.selectId)

/-- 'At most one device asserted at a time' (60_exceptions.md R146): no session but the current one is inside its
critical section (70_reset_and_hazards.md R154 (c), R157), and no line is asserted but the current session's, while it
is. Two sessions may be on one line (95_test_vectors.md P2). -/
structure State.Serialised (s : State) : Prop where
  parked : ∀ p ∈ s.parked, p.2.nest = 0
  lines : ∀ id, s.lineLevel id = .asserted ↔ id = s.sess.cfg.selectId ∧ 0 < s.sess.nest

/-- The host keeps hazard H3 at the next request (70_reset_and_hazards.md R157): it turns to another session only when
the current one is not selected. -/
def State.NextRequestSerial (s : State) : Prop :=
  ∀ q rest, s.pending = q :: rest → q.session ≠ s.current → s.sess.nest = 0

/-! ### The commands of a history -/

/-- The address/operation pairs of the commands in a list of events. `inData` says that the next exchange is the
second byte of a long command; it is there exactly when the first byte's reply is valid (30_encoding.md R65). -/
def commandsOf (P : Params) : Bool → List Event → List (RegAddr × OpBits)
  | _, [] => []
  | true, .xfer _ _ :: rest => commandsOf P false rest
  | false, .xfer tx rx :: rest =>
    (addrField tx, opField tx) ::
      commandsOf P ((opField tx == P.opWrite || opField tx == P.opRead) && rx.getLsbD 1) rest
  | inData, .busMode _ :: rest => commandsOf P inData rest
  | inData, .assertLine _ :: rest => commandsOf P inData rest
  | inData, .deassertLine _ :: rest => commandsOf P inData rest

/-- How many byte exchanges a list of events holds. -/
def exchanges : List Event → Nat
  | [] => 0
  | .xfer _ _ :: rest => exchanges rest + 1
  | .busMode _ :: rest => exchanges rest
  | .assertLine _ :: rest => exchanges rest
  | .deassertLine _ :: rest => exchanges rest

/-- The eleven address/operation pairs of 30_encoding.md R66. -/
def emittedPairs (P : Params) : List (RegAddr × OpBits) :=
  [(P.addrWiper0, P.opWrite), (P.addrWiper0, P.opRead), (P.addrWiper0, P.opInc), (P.addrWiper0, P.opDec),
   (P.addrWiper1, P.opWrite), (P.addrWiper1, P.opRead), (P.addrWiper1, P.opInc), (P.addrWiper1, P.opDec),
   (P.addrTcon, P.opRead), (P.addrTcon, P.opWrite), (P.addrStatus, P.opRead)]

/-! ### The registers an operation names -/

/-- The wiper register of the session's unit (42_wiper.md R101). -/
def State.wiperRegister (s : State) : RegAddr :=
  if s.sess.cfg.unit = .unit0 then s.par.addrWiper0 else s.par.addrWiper1

/-- The two events of a long transfer whose first reply is valid (41_select_transfer.md R97). -/
def longEvents (addr : Byte) (op : OpBits) (data : Word16) (rx1 rx2 : Byte) : List Event :=
  [.xfer (firstByte (enc16 addr (op.setWidth 8) data)) rx1,
   .xfer (secondByte (enc16 addr (op.setWidth 8) data)) rx2]

/-- The one event of a long transfer whose first reply is invalid (41_select_transfer.md R97). -/
def cutEvents (addr : Byte) (op : OpBits) (data : Word16) (rx1 : Byte) : List Event :=
  [.xfer (firstByte (enc16 addr (op.setWidth 8) data)) rx1]

/-- What a failure looks like to the host (60_exceptions.md R132): `ok = false`, or the sentinel of `GETV`; a
convenience flag getter has no way to show it. -/
def ReportsFailure : Response → Prop
  | .none => False
  | .value v => v = 0xFFFF#16
  | .ok b => b = false
  | .okValue b _ => b = false
  | .okFlag b _ => b = false
  | .flag _ => True
  | .okData b _ => b = false

/-- What `SELECT` and `DESELECT` leave alone: everything but the current session's `nest`, the level of its own line,
the history and the environment. -/
structure State.SameElsewhere (s t : State) : Prop where
  par : t.par = s.par
  current : t.current = s.current
  cfg : t.sess.cfg = s.sess.cfg
  maxValue : t.sess.maxValue = s.sess.maxValue
  parked : t.parked = s.parked
  pending : t.pending = s.pending
  draws : t.draws = s.draws
  seq : t.seq = .idle
  responses : t.responses = s.responses ++ [.none]
  environment : s.env.Supplies [] t.env
  otherLines : ∀ id, id ≠ s.sess.cfg.selectId → t.lineLevel id = s.lineLevel id

/-! ### The TCON flags -/

/-- The mask of each setter (43_tcon_status.md R115, R117, R119, R125). -/
inductive TconFlag where
  | termA
  | termB
  | wiper
  | shdn
  deriving DecidableEq, Repr

/-- The flag's unit-0 mask (00_scope.md R8). -/
def TconFlag.mask (P : Params) : TconFlag → FlagMask
  | .termA => P.maskTermA
  | .termB => P.maskTermB
  | .wiper => P.maskWiper
  | .shdn => P.maskShdn

/-- The bit that stands for the value `v` of the flag: inverted for shutdown (43_tcon_status.md R125, R126). -/
def TconFlag.raw : TconFlag → Bool → Bool
  | .termA, v => v
  | .termB, v => v
  | .wiper, v => v
  | .shdn, v => !v

/-- The setter of a flag. -/
def TconFlag.setter : TconFlag → Bool → Instr
  | .termA, v => .setta v
  | .termB, v => .settb v
  | .wiper, v => .setw v
  | .shdn, v => .setshdn v

/-- The two-result getter of a flag. -/
def TconFlag.getter : TconFlag → Instr
  | .termA => .getta
  | .termB => .gettb
  | .wiper => .getw
  | .shdn => .getshdn

/-- The convenience getter of a flag. -/
def TconFlag.convenience : TconFlag → Instr
  | .termA => .gettav
  | .termB => .gettbv
  | .wiper => .getwv
  | .shdn => .getshdnv

/-- The flag's bit in TCON for the session's unit (43_tcon_status.md R111): the mask, shifted left by 4 for unit 1. -/
def State.flagBit (s : State) (f : TconFlag) : Data9 :=
  if s.sess.cfg.unit = .unit1 then (f.mask s.par).setWidth 9 <<< 4 else (f.mask s.par).setWidth 9

/-- What a setter writes back where it read `cur` (43_tcon_status.md R113, step 4). -/
def State.updated (s : State) (f : TconFlag) (v : Bool) (cur : Data9) : Data9 :=
  (if f.raw v then cur ||| s.flagBit f else cur &&& ~~~(s.flagBit f)) ||| 0x100#9

/-! ### Named premises on the environment -/

/-- EA1, validity echo (20_memory.md R45): bit 1 of the reply to a command byte says whether the address/operation
combination is legal. -/
def EA1 (legal : RegAddr → OpBits → Bool) (tx rx : Byte) : Prop :=
  rx.getLsbD 1 = legal (addrField tx) (opField tx)

/-- EA3, reply layout (20_memory.md R47): the register value `v` comes back as bit 0 of the first reply byte and the
whole second. -/
def EA3 (v : Data9) (rx1 rx2 : Byte) : Prop :=
  rx1.getLsbD 0 = v.getLsbD 8 ∧ rx2 = v.extractLsb' 0 8

/-- EA4, absent bus (20_memory.md R48): bit 1 of the reply is 0. -/
def EA4 (rx : Byte) : Prop := rx.getLsbD 1 = false

end Sys2Proof.Machine
end

