-- ==== Sys2Proof/Certificates/Slice0/Obligations.lean ====
section
/-! DEFINITION. The statements for the provers. Each docstring names the rule it comes from. In the results of
operations, `s.after evs e d r` is `s` with only the history, the environment, the count of draws and the responses
changed, so the record that stands there is also the frame: the session, the other sessions, the lines, the parameters
and the pending requests are as before. `e.Supplies rxs e'` ties the returned bytes to the environment, whatever it is:
an oracle's script may hold any bytes at all. `s.framed` puts BusMode before
Assert: that order is the spec's decision D23 (log entry 17), and the statements whose events are so framed name it. -/

open Sys2Proof Sys2Proof.Machine

/-! ### The codec -/

/-- Laws L1 to L8, which 40_codec.md R89 marks as derived from R81 to R84, for every operand (an operand may be wider
than its field). -/
def Obligations.CodecLaws : Prop :=
  (∀ a op, isValid (enc8 a op) = true) ∧
  (∀ a op d, isValid (firstByte (enc16 a op d)) = true) ∧
  (∀ b, isValid (b ^^^ 0x02#8) = !isValid b) ∧
  (∀ a op d, decData (firstByte (enc16 a op d)) (secondByte (enc16 a op d)) = (d &&& 0x1FF#16).setWidth 9) ∧
  (∀ a op, (enc8 a op).extractLsb' 4 4 = a.extractLsb' 0 4 ∧
    (enc8 a op).extractLsb' 2 2 = op.extractLsb' 0 2 ∧ (enc8 a op).extractLsb' 0 2 = 0b10#2) ∧
  (∀ a op d, (enc16 a op d).extractLsb' 9 7 = (enc8 a op).extractLsb' 1 7 ∧
    (enc16 a op d).extractLsb' 0 9 = d.extractLsb' 0 9) ∧
  (∀ a op a' op', enc8 a op = enc8 a' op' →
    a.extractLsb' 0 4 = a'.extractLsb' 0 4 ∧ op.extractLsb' 0 2 = op'.extractLsb' 0 2) ∧
  (∀ a op d a' op' d', enc16 a op d = enc16 a' op' d' →
    a.extractLsb' 0 4 = a'.extractLsb' 0 4 ∧ op.extractLsb' 0 2 = op'.extractLsb' 0 2 ∧
      d.extractLsb' 0 9 = d'.extractLsb' 0 9) ∧
  (∀ b b', b.getLsbD 1 = b'.getLsbD 1 → isValid b = isValid b') ∧
  (∀ b1 b1' b2, b1.getLsbD 0 = b1'.getLsbD 0 → decData b1 b2 = decData b1' b2)

/-- The encoders (40_codec.md R81, R82): each is its formula, and bit by bit that is: a short command's four fields; a
long command's fields in the word and in its two bytes, the first byte being `ENC8` with bit 0 replaced by `data[8]`. An
operand wider than its field is cut, and the short byte is never 0. -/
def Obligations.CommandWordLayout : Prop :=
  (∀ a op, enc8 a op = (((a <<< 4) &&& 0xF0#8) ||| ((op <<< 2) &&& 0x0C#8)) ||| 0x02#8 ∧
    (enc8 a op).extractLsb' 4 4 = a.extractLsb' 0 4 ∧ (enc8 a op).extractLsb' 2 2 = op.extractLsb' 0 2 ∧
    (enc8 a op).getLsbD 1 = true ∧ (enc8 a op).getLsbD 0 = false ∧ enc8 a op ≠ 0x00#8) ∧
  (∀ a op d, enc16 a op d = ((enc8 a op).setWidth 16 <<< 8) ||| (d &&& 0x1FF#16) ∧
    (enc16 a op d).extractLsb' 12 4 = a.extractLsb' 0 4 ∧
    (enc16 a op d).extractLsb' 10 2 = op.extractLsb' 0 2 ∧ (enc16 a op d).getLsbD 9 = true ∧
    (enc16 a op d).getLsbD 8 = d.getLsbD 8 ∧ (enc16 a op d).extractLsb' 0 8 = d.extractLsb' 0 8 ∧
    firstByte (enc16 a op d) = (enc8 a op ||| (d.extractLsb' 8 1).setWidth 8) ∧
    secondByte (enc16 a op d) = d.extractLsb' 0 8)

/-- The verdict and the data of a reply (40_codec.md R83, R84): bit 1 of the first byte, and bit 0 of the first byte
above the whole second byte; every other bit is ignored, and the data ranges over all 512 values. -/
def Obligations.ReplyDecoding : Prop :=
  (∀ b, isValid b = true ↔ b.getLsbD 1 = true) ∧
  (∀ b1 b2, (decData b1 b2).getLsbD 8 = b1.getLsbD 0 ∧ (decData b1 b2).extractLsb' 0 8 = b2) ∧
  (∀ d, ∃ b1 b2, decData b1 b2 = d)

/-! ### Encoding -/

/-- Decoding an encoded well-formed instruction gives it back, for every instruction and every parameters whose four
operations are distinct (30_encoding.md R57, R58, R63, R78). -/
def Obligations.DecodeOfEncode : Prop :=
  ∀ (P : Params) (i : Instr), P.Ok → WellFormed i → decode P (encode P i) = .ok i

/-- The other direction: what is decoded is well formed, and encodes to the frame it came from; of a read, whose data
bits are don't-cares (30_encoding.md R68; log entry 13), the frame with the data bits set; of a request, the same
code, the operand being the field the operation's row of 30_encoding.md R77 names, `value` for `SET` and `flag` for the
four setters, whatever the other field holds (that a frame always carries both is the model's choice, log entry 15). -/
def Obligations.EncodeOfDecode : Prop :=
  ∀ (P : Params) (f : Frame) (i : Instr), decode P f = .ok i →
    WellFormed i ∧
    (∀ bytes, f = .wire bytes → (∀ addr, i ≠ .cmdRead addr) → encode P i = f) ∧
    (∀ bytes addr, f = .wire bytes → i = .cmdRead addr →
      ∃ b b2, bytes = [b, b2] ∧ encode P i = .wire [b ||| 0x01#8, 0xFF#8]) ∧
    (∀ code v g, f = .host code v g →
      (∃ v' g', encode P i = .host code v' g') ∧
      (∀ value, i = .set value → value = v) ∧
      (∀ flag, i = .setta flag ∨ i = .settb flag ∨ i = .setw flag ∨ i = .setshdn flag → flag = g))

/-- Words written out from the table's encodings decode to their instructions: 40_codec.md's examples for the wire
commands (R85 to R88), the codes of 30_encoding.md R78 for the requests. -/
def Obligations.TableWordsDecode : Prop :=
  decodeTableWord 16 0x43F7 = some (.cmdWrite 0x4#8 0x1F7#16) ∧
  decodeTableWord 16 0x0FFF = some (.cmdRead 0x0#8) ∧
  decodeTableWord 8 0x16 = some (.cmdIncr 0x1#8) ∧
  decodeTableWord 8 0x1A = some (.cmdDecr 0x1#8) ∧
  decodeTableWord 5 0b00011 = some (.set 0#16) ∧
  decodeTableWord 5 0b01111 = some (.setshdn false) ∧
  decodeTableWord 5 0b10010 = some .gethwshdn ∧
  decodeTableWord 5 0b10100 = some .deselect ∧
  decodeTableWord 5 0b10101 = none

/-! ### The step -/

/-- A step takes the next request, turns to the session it is made to, and runs the decoded instruction. That coming
requests wait in a list of State is the model's choice (log entry 6), and so is turning to a session by its name (log
entry 9); that one request is run whole before the next is 60_exceptions.md R144, that sessions are independent is R146. -/
def Obligations.StepRunsDecodedInstruction : Prop :=
  ∀ (s s1 : State) (q : Request) (rest : List Request) (i : Instr),
    s.pending = q :: rest → s.address q.session = some s1 → decode s.par q.frame = .ok i →
      step s = exec i { s1 with pending := rest } ∧
      (q.session = s.current → step s = exec i { s with pending := rest })

/-- With no request made the block waits and nothing changes (70_reset_and_hazards.md R152). That 'no request' is an
empty list of State is the model's choice (log entry 6). -/
def Obligations.StepWaitsForRequest : Prop := ∀ s : State, s.pending = [] → step s = .next s

/-- A request turns the machine to the session it names and to no other state of affairs: the sessions on the bus are
the same ones, and nothing else changes (60_exceptions.md R146). Names for sessions are the model's choice (log entry 9). -/
def Obligations.RequestReachesItsSession : Prop :=
  ∀ (s s1 : State) (n : Nat), s.address n = some s1 →
    s1.current = n ∧ (n, s1.sess) ∈ s.sessions ∧ s1.sessions.Perm s.sessions ∧
    s1 = { s with current := s1.current, sess := s1.sess, parked := s1.parked }

/-- The two refusals of 60_exceptions.md R143: an operation that would take `nest` above `NEST_MAX`, at entry, by its
depth; and a request code 21 to 31. Both are the spec's own decisions, D5 and D11; the depth of a wire command, which
R143 does not list, is the model's reading (log entry 12). An operation of depth 0 is never refused for its depth. -/
def Obligations.RefusalsOfTheModel : Prop :=
  (∀ (i : Instr) (s : State), s.seq = .idle → 0 < depthOf i →
    (exec i s = .refused .nestOverflow ↔ s.par.nestMax < s.sess.nest + depthOf i)) ∧
  (∀ (i : Instr) (s : State), s.seq = .idle → depthOf i = 0 → ∃ t, exec i s = .next t) ∧
  (∀ (s s1 : State) (q : Request) (rest : List Request) (code : BitVec 5) (v : Word16) (g : Bool),
    s.pending = q :: rest → s.address q.session = some s1 → q.frame = .host code v g → 21 ≤ code.toNat →
      step s = .refused .reservedRequest)

/-- Every operation that is accepted and has room answers a next state, is over when it does, and has returned exactly
one response: of a host operation, of the shape the table of 30_encoding.md R77 gives it; of a wire command, which that
table does not list, of the shape the model chose, `ok` and for a read the data too (log entry 7). The depth of a wire
command is the model's reading (log entry 12). -/
def Obligations.EveryOperationCompletes : Prop :=
  ∀ (i : Instr) (s : State), s.Ready (depthOf i) →
    ∃ t r, exec i s = .next t ∧ t.seq = .idle ∧ t.responses = s.responses ++ [r] ∧ ShapeOf i r

/-- An operation starts only from IDLE (60_exceptions.md R144; that the model refuses it otherwise is entry 10). -/
def Obligations.BusyOperationRefused : Prop :=
  ∀ (i : Instr) (s : State) (op : Instr) (k : Nat), s.seq = .busy op k → exec i s = .refused .busy

/-! ### Wiper operations -/

/-- `MAXVAL` (42_wiper.md R102): it returns `max_value`, emits nothing and leaves all else alone, whatever the nesting;
in a session as construction makes it the value is resolution plus 1 for a potentiometer. -/
def Obligations.MaxvalResult : Prop :=
  ∀ s : State, s.seq = .idle →
    exec .maxval s = .next (s.after [] s.env s.draws (.value s.sess.maxValue)) ∧
    (s.sess.Ok s.par → s.sess.maxValue.toNat =
      (if s.sess.cfg.resolution = .res7bit then 127 else 255) +
      (if s.sess.cfg.wiperCfg = .potentiometer then 1 else 0))

/-- `INCR` (42_wiper.md R103): one short transfer of `OP_INC` at the wiper of the session's unit, the result its
verdict, whatever the wiper's position. The order of the framing events, BusMode then Assert, is the spec's decision
D23 (log entry 17). -/
def Obligations.IncrResult : Prop :=
  ∀ s : State, s.Ready 1 → s.LineAgrees →
    ∃ rx e d, s.env.Supplies [rx] e ∧
      exec .incr s = .next (s.after
        (s.framed [.xfer (enc8 (s.wiperRegister.setWidth 8) (s.par.opInc.setWidth 8)) rx]) e d
        (.ok (rx.getLsbD 1)))

/-- `DECR` (42_wiper.md R104): as `INCR`, with `OP_DEC`; the framing's order is D23's (log entry 17). -/
def Obligations.DecrResult : Prop :=
  ∀ s : State, s.Ready 1 → s.LineAgrees →
    ∃ rx e d, s.env.Supplies [rx] e ∧
      exec .decr s = .next (s.after
        (s.framed [.xfer (enc8 (s.wiperRegister.setWidth 8) (s.par.opDec.setWidth 8)) rx]) e d
        (.ok (rx.getLsbD 1)))

/-- `SET(value)` (42_wiper.md R105): the smaller of `value` and `max_value` is written to the wiper by one long
transfer; the result is the first reply's verdict, and the second byte goes out only if that is valid. For
`value > max_value` it behaves identically to `set(max_value)`, in every state. The order of the framing events, BusMode
then Assert, is the spec's decision D23 (log entry 17), and the operand's being unsigned is D21. -/
def Obligations.SetResult : Prop :=
  (∀ (s : State) (value : Word16), s.Ready 1 → s.LineAgrees →
    let v := if value.toNat ≤ s.sess.maxValue.toNat then value else s.sess.maxValue
    (∃ rx1 rx2 e d, rx1.getLsbD 1 = true ∧ s.env.Supplies [rx1, rx2] e ∧
      exec (.set value) s = .next (s.after
        (s.framed (longEvents (s.wiperRegister.setWidth 8) s.par.opWrite v rx1 rx2)) e d (.ok true))) ∨
    (∃ rx1 e d, rx1.getLsbD 1 = false ∧ s.env.Supplies [rx1] e ∧
      exec (.set value) s = .next (s.after
        (s.framed (cutEvents (s.wiperRegister.setWidth 8) s.par.opWrite v rx1)) e d (.ok false)))) ∧
  (∀ (s : State) (value : Word16), s.sess.maxValue.toNat < value.toNat →
    exec (.set value) s = exec (.set s.sess.maxValue) s)

/-- `GET` (42_wiper.md R106): one long read of the wiper with the dummy 0x1FF; on success the 9-bit reply, with no
range check; on failure some value of which nothing is said: a draw, by the spec's decision D7 (log entries 5, 17). The
order of the framing events, BusMode then Assert, is the spec's decision D23 (log entry 17). -/
def Obligations.GetResult : Prop :=
  ∀ s : State, s.Ready 1 → s.LineAgrees →
    (∃ rx1 rx2 e d, rx1.getLsbD 1 = true ∧ s.env.Supplies [rx1, rx2] e ∧
      exec .get s = .next (s.after
        (s.framed (longEvents (s.wiperRegister.setWidth 8) s.par.opRead 0x1FF#16 rx1 rx2)) e d
        (.okValue true ((decData rx1 rx2).setWidth 16)))) ∨
    (∃ rx1 e d v, rx1.getLsbD 1 = false ∧ s.env.Supplies [rx1] e ∧
      exec .get s = .next (s.after
        (s.framed (cutEvents (s.wiperRegister.setWidth 8) s.par.opRead 0x1FF#16 rx1)) e d
        (.okValue false v)))

/-- `GETV` (42_wiper.md R107): `GET`'s value, or the sentinel 0xFFFF, which no successful read returns
(the second clause is marked as derived in R107). The framing's order is the spec's decision D23 (log entry 17). -/
def Obligations.GetvResult : Prop :=
  (∀ s : State, s.Ready 1 → s.LineAgrees →
    (∃ rx1 rx2 e d, rx1.getLsbD 1 = true ∧ s.env.Supplies [rx1, rx2] e ∧
      exec .getv s = .next (s.after
        (s.framed (longEvents (s.wiperRegister.setWidth 8) s.par.opRead 0x1FF#16 rx1 rx2)) e d
        (.value ((decData rx1 rx2).setWidth 16)))) ∨
    (∃ rx1 e d, rx1.getLsbD 1 = false ∧ s.env.Supplies [rx1] e ∧
      exec .getv s = .next (s.after
        (s.framed (cutEvents (s.wiperRegister.setWidth 8) s.par.opRead 0x1FF#16 rx1)) e d
        (.value 0xFFFF#16)))) ∧
  (∀ rx1 rx2, (decData rx1 rx2).setWidth 16 ≠ 0xFFFF#16)

/-! ### TCON and status operations -/

/-- The four setters (43_tcon_status.md R113, R115, R117, R119, R125): TCON is read; refused, nothing is written and the
result is false; else the updated value is written back, in the same critical section, and the result is the write's
verdict (the spec's decision D10). `SETSHDN` stores its operand inverted. The framing's order is D23's (log entry 17). -/
def Obligations.TconSetterResult : Prop :=
  ∀ (s : State) (f : TconFlag) (v : Bool), s.Ready 2 → s.LineAgrees →
    let a : Byte := s.par.addrTcon.setWidth 8
    let new := fun rx1 rx2 : Byte => (s.updated f v (decData rx1 rx2)).setWidth 16
    (∃ rx1 e d, rx1.getLsbD 1 = false ∧ s.env.Supplies [rx1] e ∧
      exec (f.setter v) s = .next (s.after (s.framed (cutEvents a s.par.opRead 0x1FF#16 rx1)) e d (.ok false))) ∨
    (∃ rx1 rx2 rx3 e d, rx1.getLsbD 1 = true ∧ rx3.getLsbD 1 = false ∧ s.env.Supplies [rx1, rx2, rx3] e ∧
      exec (f.setter v) s = .next (s.after
        (s.framed (longEvents a s.par.opRead 0x1FF#16 rx1 rx2 ++ cutEvents a s.par.opWrite (new rx1 rx2) rx3))
        e d (.ok false))) ∨
    (∃ rx1 rx2 rx3 rx4 e d, rx1.getLsbD 1 = true ∧ rx3.getLsbD 1 = true ∧
      s.env.Supplies [rx1, rx2, rx3, rx4] e ∧
      exec (f.setter v) s = .next (s.after
        (s.framed (longEvents a s.par.opRead 0x1FF#16 rx1 rx2 ++
          longEvents a s.par.opWrite (new rx1 rx2) rx3 rx4))
        e d (.ok true)))

/-- Laws T1 to T5, which 43_tcon_status.md R114 marks as derived from R111 and R113, for every 4-bit mask and either
unit. -/
def Obligations.TconPreservationLaws : Prop :=
  ∀ (unit : UnitIndex) (mask : FlagMask) (cur : Data9) (value : Bool) (a op : Byte),
    let m := unitMask unit mask
    let new := tconNew cur m value
    (new.extractLsb' 0 8 &&& ~~~(m.extractLsb' 0 8) = cur.extractLsb' 0 8 &&& ~~~(m.extractLsb' 0 8)) ∧
    (unit = .unit0 → new.extractLsb' 4 4 = cur.extractLsb' 4 4) ∧
    (unit = .unit1 → new.extractLsb' 0 4 = cur.extractLsb' 0 4) ∧
    (new &&& m = if value then m else 0) ∧
    new.getLsbD 8 = true ∧
    secondByte (enc16 a op (new.setWidth 16)) = new.extractLsb' 0 8 ∧
    (firstByte (enc16 a op (new.setWidth 16))).getLsbD 0 = true

/-- The four two-result flag getters (43_tcon_status.md R112, R116, R118, R120, R126): one read of TCON and no write (the
spec's decision D8); on success the flag's bit, inverted for shutdown; on failure some flag of which nothing is said (a
draw, D7; log entries 5, 17). The framing's order is D23's. -/
def Obligations.TconGetterResult : Prop :=
  ∀ (s : State) (f : TconFlag), s.Ready 1 → s.LineAgrees →
    let a : Byte := s.par.addrTcon.setWidth 8
    (∃ rx1 rx2 e d, rx1.getLsbD 1 = true ∧ s.env.Supplies [rx1, rx2] e ∧
      exec f.getter s = .next (s.after (s.framed (longEvents a s.par.opRead 0x1FF#16 rx1 rx2)) e d
        (.okFlag true (f.raw (decData rx1 rx2 &&& s.flagBit f != 0#9))))) ∨
    (∃ rx1 e d x, rx1.getLsbD 1 = false ∧ s.env.Supplies [rx1] e ∧
      exec f.getter s = .next (s.after (s.framed (cutEvents a s.par.opRead 0x1FF#16 rx1)) e d (.okFlag false x)))

/-- The four convenience flag getters (43_tcon_status.md R121 to R124, R127): the same bus events, the flag alone; on
failure a draw (the spec's decision D7; log entries 5, 17). The framing's order is D23's. -/
def Obligations.TconConvenienceResult : Prop :=
  ∀ (s : State) (f : TconFlag), s.Ready 1 → s.LineAgrees →
    let a : Byte := s.par.addrTcon.setWidth 8
    (∃ rx1 rx2 e d, rx1.getLsbD 1 = true ∧ s.env.Supplies [rx1, rx2] e ∧
      exec f.convenience s = .next (s.after (s.framed (longEvents a s.par.opRead 0x1FF#16 rx1 rx2)) e d
        (.flag (f.raw (decData rx1 rx2 &&& s.flagBit f != 0#9))))) ∨
    (∃ rx1 e d x, rx1.getLsbD 1 = false ∧ s.env.Supplies [rx1] e ∧
      exec f.convenience s = .next (s.after (s.framed (cutEvents a s.par.opRead 0x1FF#16 rx1)) e d (.flag x)))

/-- `GETHWSHDN` (43_tcon_status.md R128): one read of the status register, for either unit; the flag is its masked bit,
not inverted (the spec's decision D20); on failure some flag of which nothing is said (a draw, D7; log entries 5, 17).
The framing's order is D23's. -/
def Obligations.HardwareShutdownResult : Prop :=
  ∀ s : State, s.Ready 1 → s.LineAgrees →
    let a : Byte := s.par.addrStatus.setWidth 8
    (∃ rx1 rx2 e d, rx1.getLsbD 1 = true ∧ s.env.Supplies [rx1, rx2] e ∧
      exec .gethwshdn s = .next (s.after (s.framed (longEvents a s.par.opRead 0x1FF#16 rx1 rx2)) e d
        (.okFlag true (decData rx1 rx2 &&& s.par.maskStatusShdn != 0#9)))) ∨
    (∃ rx1 e d x, rx1.getLsbD 1 = false ∧ s.env.Supplies [rx1] e ∧
      exec .gethwshdn s = .next (s.after (s.framed (cutEvents a s.par.opRead 0x1FF#16 rx1)) e d
        (.okFlag false x)))

/-- The shutdown inversion law, which 43_tcon_status.md R130 marks as derived: `SETSHDN b` against a responder that
accepts the TCON read and write, then `GETSHDN` where the read returns what was written: the stored bit is the inverse of
`b` and the getter returns `b`, whatever TCON held before. The setter's result is the write's verdict (D10), the getter
writes nothing (D8). -/
def Obligations.ShutdownInversion : Prop :=
  ∀ (s : State) (b : Bool) (r1 r2 r3 r4 r5 r6 : Byte) (rest : List Byte),
    s.Ready 2 → s.LineAgrees → s.par.Ok → s.env = .oracle ([r1, r2, r3, r4, r5, r6] ++ rest) →
    r1.getLsbD 1 = true → r3.getLsbD 1 = true → r5.getLsbD 1 = true →
    EA3 (s.updated .shdn b (decData r1 r2)) r5 r6 →
    ((s.updated .shdn b (decData r1 r2) &&& s.flagBit .shdn != 0#9) = !b) ∧
    ∃ t, runAll [.setshdn b, .getshdn] s = .next t ∧ t.env = .oracle rest ∧
      t.responses = s.responses ++ [.ok true, .okFlag true b]

/-! ### Wire commands -/

/-- `CMD_INCR` and `CMD_DECR` run by themselves (40_codec.md R87, R88; 41_select_transfer.md R95): one byte out, the verdict
back. That a wire command may be run by itself, and what it then returns, is the model's choice (log entry 7); the
framing's order is D23's (log entry 17). -/
def Obligations.WireShortCommandResult : Prop :=
  ∀ (s : State) (addr : Byte), s.Ready 1 → s.LineAgrees →
    (∃ rx e d, s.env.Supplies [rx] e ∧
      exec (.cmdIncr addr) s = .next (s.after
        (s.framed [.xfer (enc8 addr (s.par.opInc.setWidth 8)) rx]) e d (.ok (rx.getLsbD 1)))) ∧
    (∃ rx e d, s.env.Supplies [rx] e ∧
      exec (.cmdDecr addr) s = .next (s.after
        (s.framed [.xfer (enc8 addr (s.par.opDec.setWidth 8)) rx]) e d (.ok (rx.getLsbD 1))))

/-- `CMD_WRITE` run by itself (40_codec.md R85; 41_select_transfer.md R96; that it can be, and what it returns, is the
model's choice, log entry 7): two bytes and `ok` where the first reply is valid, the first byte alone where it is not. The
framing's order is D23's (log entry 17). -/
def Obligations.WireWriteResult : Prop :=
  ∀ (s : State) (addr : Byte) (data : Word16), s.Ready 1 → s.LineAgrees →
    (∃ rx1 rx2 e d, rx1.getLsbD 1 = true ∧ s.env.Supplies [rx1, rx2] e ∧
      exec (.cmdWrite addr data) s = .next (s.after
        (s.framed (longEvents addr s.par.opWrite data rx1 rx2)) e d (.ok true))) ∨
    (∃ rx1 e d, rx1.getLsbD 1 = false ∧ s.env.Supplies [rx1] e ∧
      exec (.cmdWrite addr data) s = .next (s.after
        (s.framed (cutEvents addr s.par.opWrite data rx1)) e d (.ok false)))

/-- `CMD_READ` run by itself (40_codec.md R86; 41_select_transfer.md R96; that it can be, and what it returns, is the
model's choice, log entry 7): the dummy 0x1FF is sent, the 9 data bits come back; on failure some data of which nothing is
said (a draw, D7; log entry 5). The framing's order is D23's (log entry 17). -/
def Obligations.WireReadResult : Prop :=
  ∀ (s : State) (addr : Byte), s.Ready 1 → s.LineAgrees →
    (∃ rx1 rx2 e d, rx1.getLsbD 1 = true ∧ s.env.Supplies [rx1, rx2] e ∧
      exec (.cmdRead addr) s = .next (s.after
        (s.framed (longEvents addr s.par.opRead 0x1FF#16 rx1 rx2)) e d (.okData true (decData rx1 rx2)))) ∨
    (∃ rx1 e d v, rx1.getLsbD 1 = false ∧ s.env.Supplies [rx1] e ∧
      exec (.cmdRead addr) s = .next (s.after
        (s.framed (cutEvents addr s.par.opRead 0x1FF#16 rx1)) e d (.okData false v)))

/-! ### The critical section -/

/-- `SELECT` (41_select_transfer.md R91): the counter goes up by one; on the transition from 0, and only on it, the bus
is configured and then the line asserted, in that order (the spec's decision D23); refused at `NEST_MAX` (D5). -/
def Obligations.SelectResult : Prop :=
  ∀ s : State, s.seq = .idle →
    (s.sess.nest < s.par.nestMax → ∃ t, exec .select s = .next t ∧ s.SameElsewhere t ∧
      t.sess.nest = s.sess.nest + 1 ∧
      (s.sess.nest = 0 → t.cs = .asserted ∧
        t.hist = s.hist ++ [.busMode s.par.busCfg, .assertLine s.sess.cfg.selectId]) ∧
      (s.sess.nest ≠ 0 → t.cs = s.cs ∧ t.hist = s.hist)) ∧
    (s.sess.nest = s.par.nestMax → exec .select s = .refused .nestOverflow)

/-- `DESELECT` (41_select_transfer.md R92): the counter goes down by one, with a floor at 0; on the transition to 0, and
only on it, the line is deasserted; at 0 nothing at all happens (the floor is the spec's decision D6). -/
def Obligations.DeselectResult : Prop :=
  ∀ s : State, s.seq = .idle →
    ∃ t, exec .deselect s = .next t ∧ s.SameElsewhere t ∧ t.sess.nest = s.sess.nest - 1 ∧
      (s.sess.nest = 1 → t.cs = .deasserted ∧ t.hist = s.hist ++ [.deassertLine s.sess.cfg.selectId]) ∧
      (s.sess.nest ≠ 1 → t.cs = s.cs ∧ t.hist = s.hist) ∧
      (s.sess.nest = 0 → t = s.after [] s.env s.draws .none)

/-- Laws N1 and N6 of 41_select_transfer.md R93, marked as derived there: from `nest = 0`, `k` selects and then `k`
deselects assert the line once and deassert it once, with nothing between. BusMode before Assert is D23's order (log entry
17). -/
def Obligations.NestedSelectsAssertOnce : Prop :=
  ∀ (s : State) (k : Nat), s.seq = .idle → s.LineAgrees → s.sess.nest = 0 → 1 ≤ k → k ≤ s.par.nestMax →
    ∃ t, runAll (List.replicate k .select ++ List.replicate k .deselect) s = .next t ∧
      t.sess = s.sess ∧ t.lines = s.lines ∧
      t.hist = s.hist ++ [.busMode s.par.busCfg, .assertLine s.sess.cfg.selectId,
        .deassertLine s.sess.cfg.selectId]

/-! ### Whole-machine rules -/

/-- Every operation but `SELECT` and `DESELECT`, failed or not, leaves `nest`, the lines, the other sessions, the
parameters and the pending requests exactly as it found them (41_select_transfer.md R94; 60_exceptions.md R139). -/
def Obligations.OperationFrame : Prop :=
  ∀ (i : Instr) (s t : State), s.LineAgrees → i ≠ .select → i ≠ .deselect → exec i s = .next t →
    ∃ evs e d r, t = s.after evs e d r

/-- The history only grows, by at most four byte exchanges and three other events an operation
(20_memory.md R42; 70_reset_and_hazards.md R167). -/
def Obligations.HistoryGrowsWithinBounds : Prop :=
  ∀ (i : Instr) (s t : State), s.LineAgrees → exec i s = .next t →
    ∃ evs, t.hist = s.hist ++ evs ∧ exchanges evs ≤ 4 ∧ evs.length ≤ exchanges evs + 3

/-- Over all host operations, both units and every reply, the session sends no command but the eleven address/operation
pairs of 30_encoding.md R66. -/
def Obligations.OnlyElevenPairsEmitted : Prop :=
  ∀ (i : Instr) (s t : State), isHostOp i = true → s.LineAgrees → exec i s = .next t →
    ∃ evs, t.hist = s.hist ++ evs ∧ ∀ p ∈ commandsOf s.par false evs, p ∈ emittedPairs s.par

/-- Nothing is shared between sessions inside the block (60_exceptions.md R146): an operation neither changes nor reads
another session's state. -/
def Obligations.OtherSessionsUntouchedAndUnread : Prop :=
  ∀ (i : Instr) (s t : State) (others : List (Nat × Session)), exec i s = .next t →
    t.parked = s.parked ∧ exec i { s with parked := others } = .next { t with parked := others }

/-- The block cannot read the event history or the responses it has returned (10_state.md R23, R30). -/
def Obligations.HistoryAndResponsesUnread : Prop :=
  ∀ (i : Instr) (s t : State) (h : List Event) (rs : List Response), exec i s = .next t →
    ∃ evs r, t.hist = s.hist ++ evs ∧ t.responses = s.responses ++ [r] ∧
      exec i { s with hist := h, responses := rs } = .next { t with hist := h ++ evs, responses := rs ++ [r] }

/-- No operation reads the wiper configuration (10_state.md R17; 43_tcon_status.md R129): in particular the terminal-A
operations run alike on rheostat and potentiometer sessions. -/
def Obligations.WiperConfigUnread : Prop :=
  ∀ (i : Instr) (s t : State) (w : WiperCfg), exec i s = .next t →
    exec i { s with sess := { s.sess with cfg := { s.sess.cfg with wiperCfg := w } } } =
      .next { t with sess := { t.sess with cfg := { t.sess.cfg with wiperCfg := w } } }

/-! ### Reset and invariants -/

/-- Construction (70_reset_and_hazards.md R152, R153): for every options and parameters, the four options as given,
`max_value` derived, `nest` 0, `seq` IDLE, no event. That the line is deasserted is no act of the block: 10_state.md R31
and the spec's decision D12 make it a premise on the environment, which the model builds into construction (log entry
11, unsafe). State.reset is such a state; which options and parameters it takes is the model's choice (log entries 1 to 3). -/
def Obligations.ConstructedState : Prop :=
  (∀ (P : Params) (cfg : SessionCfg),
    let s := State.construct P cfg
    s.sess.cfg = cfg ∧
    s.sess.maxValue.toNat = (if cfg.resolution = .res7bit then 127 else 255) +
      (if cfg.wiperCfg = .potentiometer then 1 else 0) ∧
    s.sess.nest = 0 ∧ s.seq = .idle ∧ s.hist = [] ∧ s.cs = .deasserted ∧ s.par = P) ∧
  ∃ P cfg, State.reset = State.construct P cfg

/-- The invariant, the framing and the exclusion of sessions hold at State.reset. This rests on the model's choices: the
REF values and the construction options State.reset takes (log entries 1 to 3), and the premise that no line is asserted
(log entry 11; the spec's decision D12: 10_state.md R20 says 'provided it held at reset'). -/
def Obligations.ResetMeetsInvariants : Prop :=
  State.reset.Inv ∧ State.reset.WellFramed ∧ State.reset.Serialised

/-- Every step keeps the invariant: the parameters' constraints, IDLE between steps, every session's `max_value` and
the range of its `nest`, and `cs == asserted` iff `nest > 0` for every session on the bus, where no two share a line
(10_state.md R14, R18, R19, R20). The levels are held as a list of asserted lines (log entry 11). -/
def Obligations.StepKeepsInvariant : Prop :=
  ∀ s t : State, s.Inv → step s = .next t → t.Inv

/-- Every step keeps the bus well framed (41_select_transfer.md R93, N2 and N4; R98; 70_reset_and_hazards.md R155): the bus
is configured and a line asserted only when none is, bytes are exchanged only while it is, and only that line is
deasserted; and at most one session is ever selected (60_exceptions.md R146). The host serialises its sessions (H3,
R157); two sessions may share a line. That BusMode comes before Assert is the spec's decision D23 (log entry 17). -/
def Obligations.StepKeepsBusFraming : Prop :=
  ∀ s t : State, s.Serialised → s.NextRequestSerial → s.WellFramed → step s = .next t →
    t.WellFramed ∧ t.Serialised

/-- The parameters, and every session's configuration and `max_value`, are read-only after construction
(10_state.md R14 to R18). -/
def Obligations.StepKeepsConfiguration : Prop :=
  ∀ s t : State, step s = .next t →
    t.par = s.par ∧
    (t.sessions.map fun p => (p.1, p.2.cfg, p.2.maxValue)).Perm
      (s.sessions.map fun p => (p.1, p.2.cfg, p.2.maxValue))

/-! ### The environment -/

/-- An absent bus (20_memory.md R48; 60_exceptions.md R134): every reply's bit 1 is 0. Every operation that transfers
exchanges exactly one byte, reports failure, and is over; no write follows a refused read. That an absent bus is no other
failure than an illegal command is the spec's decision D22. -/
def Obligations.AbsentBusReportsFailure : Prop :=
  ∀ (i : Instr) (s t : State) (b : Byte), s.env = .constant b → EA4 b → s.LineAgrees → 1 ≤ depthOf i →
    i ≠ .select → exec i s = .next t →
    ∃ evs r, t.hist = s.hist ++ evs ∧ t.responses = s.responses ++ [r] ∧ exchanges evs = 1 ∧ ReportsFailure r

/-- An idle-high bus looks like success (70_reset_and_hazards.md R164): where every reply is 0xFF, `GET` reports success
with 511 and every TCON flag's stored bit reads as set. -/
def Obligations.IdleHighBusLooksValid : Prop :=
  ∀ s : State, s.Ready 1 → s.LineAgrees → s.par.Ok → s.env = .constant 0xFF#8 →
    (∃ t, exec .get s = .next t ∧ t.responses = s.responses ++ [.okValue true 511#16]) ∧
    ∀ f : TconFlag, ∃ t, exec f.getter s = .next t ∧ t.responses = s.responses ++ [.okFlag true (f.raw true)]

/-- The reference responder meets the premises EA1, EA2, EA3 and EA5 by construction (20_memory.md R56). -/
def Obligations.ResponderMeetsPremises : Prop :=
  ∀ (P : Params) (r : Rsp) (tx : Byte), P.Ok → r.phase = .cmd →
    EA1 (r.legal P) tx (r.xfer P tx).1 ∧
    (opField tx = P.opRead → r.legal P (addrField tx) (opField tx) = true →
      ∀ d d', ((r.xfer P tx).2.xfer P d) = ((r.xfer P tx).2.xfer P d') ∧
        EA3 (r.reg P (addrField tx)) (r.xfer P tx).1 ((r.xfer P tx).2.xfer P d).1) ∧
    (opField tx = P.opInc → r.legal P (addrField tx) (opField tx) = true → r.reg P (addrField tx) = r.full →
      (r.xfer P tx).1.getLsbD 1 = true ∧ (r.xfer P tx).2 = r) ∧
    (opField tx = P.opDec → r.legal P (addrField tx) (opField tx) = true → r.reg P (addrField tx) = 0 →
      (r.xfer P tx).1.getLsbD 1 = true ∧ (r.xfer P tx).2 = r)

/-- '`get()` after `set(v)` on a simulated chip returns `v`' (95_test_vectors.md S3): against the reference responder,
`SET` and then `GET` return the clamped value, for either unit the responder has. -/
def Obligations.ResponderWiperRoundTrip : Prop :=
  ∀ (s : State) (r : Rsp) (value : Word16), s.Inv → s.Ready 1 → s.env = .responder r → r.phase = .cmd →
    (s.sess.cfg.unit = .unit1 → r.dual = true) →
    ∃ t, runAll [.set value, .get] s = .next t ∧
      t.responses = s.responses ++
        [.ok true, .okValue true (if value.toNat ≤ s.sess.maxValue.toNat then value else s.sess.maxValue)]
end

