-- ==== Sys2Proof/Laws/Codec.lean ====
section
/-! SUPPORT. The codec bit by bit (40_codec.md R81 to R84): the lemmas that let a proof about a command word go by its
fields and not by its masks. -/

namespace Sys2Proof.Machine

/-- `ISVALID` is the bit of weight 2 (40_codec.md R83). -/
theorem isValid_eq (b : Byte) : isValid b = b.getLsbD 1 := by
  revert b; decide

/-- Two words of one width are equal if their bits are. -/
theorem eq_of_bits {w : Nat} (x y : BitVec w) (h : ∀ k, k < w → x.getLsbD k = y.getLsbD k) : x = y :=
  BitVec.eq_of_getLsbD_eq (fun k hk => h k hk)

/-- `ENC8`'s field `addr` (30_encoding.md R57). -/
theorem enc8_addr (a op : Byte) : (enc8 a op).extractLsb' 4 4 = a.extractLsb' 0 4 := by
  apply eq_of_bits
  intro k hk
  interval_cases k <;> simp [enc8, addressMask, opcodeMask, validityProbeBit]

/-- `ENC8`'s field `op`. -/
theorem enc8_op (a op : Byte) : (enc8 a op).extractLsb' 2 2 = op.extractLsb' 0 2 := by
  apply eq_of_bits
  intro k hk
  interval_cases k <;> simp [enc8, addressMask, opcodeMask, validityProbeBit]

/-- `ENC8`'s field `probe`: always 1. -/
theorem enc8_probe (a op : Byte) : (enc8 a op).getLsbD 1 = true := by
  simp [enc8, addressMask, opcodeMask, validityProbeBit]

/-- `ENC8`'s bit 0: always 0. -/
theorem enc8_low (a op : Byte) : (enc8 a op).getLsbD 0 = false := by
  simp [enc8, addressMask, opcodeMask, validityProbeBit]

/-- A long word's first byte has `ENC8`'s address (30_encoding.md R58). -/
theorem firstByte_addr (a op : Byte) (d : Word16) :
    (firstByte (enc16 a op d)).extractLsb' 4 4 = a.extractLsb' 0 4 := by
  apply eq_of_bits
  intro k hk
  interval_cases k <;> simp [firstByte, enc16, enc8, addressMask, opcodeMask, validityProbeBit, dataMask]

/-- A long word's first byte has `ENC8`'s operation. -/
theorem firstByte_op (a op : Byte) (d : Word16) :
    (firstByte (enc16 a op d)).extractLsb' 2 2 = op.extractLsb' 0 2 := by
  apply eq_of_bits
  intro k hk
  interval_cases k <;> simp [firstByte, enc16, enc8, addressMask, opcodeMask, validityProbeBit, dataMask]

/-- A long word's first byte has the probe bit set. -/
theorem firstByte_probe (a op : Byte) (d : Word16) : (firstByte (enc16 a op d)).getLsbD 1 = true := by
  simp [firstByte, enc16, enc8, addressMask, opcodeMask, validityProbeBit, dataMask]

/-- A long word's first byte carries `data[8]` at bit 0. -/
theorem firstByte_low (a op : Byte) (d : Word16) : (firstByte (enc16 a op d)).getLsbD 0 = d.getLsbD 8 := by
  simp [firstByte, enc16, enc8, addressMask, opcodeMask, validityProbeBit, dataMask]

/-- A long word's second byte is `data[7:0]`. -/
theorem secondByte_eq (a op : Byte) (d : Word16) : secondByte (enc16 a op d) = d.extractLsb' 0 8 := by
  apply eq_of_bits
  intro k hk
  interval_cases k <;> simp [secondByte, enc16, enc8, addressMask, opcodeMask, validityProbeBit, dataMask]

/-- `DECDATA` is bit 0 of the first byte above the second (40_codec.md R84). -/
theorem decData_eq (b1 b2 : Byte) : decData b1 b2 = dataField b1 b2 := by
  apply eq_of_bits
  intro k hk
  rw [show (dataField b1 b2).getLsbD k = _ from BitVec.getLsbD_append]
  interval_cases k <;> simp [decData, dataHighBit]

/-- The data field of a long word is its data (law L4 of 40_codec.md R89, in the decoder's terms). -/
theorem dataField_enc16 (a op : Byte) (d : Word16) :
    dataField (firstByte (enc16 a op d)) (secondByte (enc16 a op d)) = d.setWidth 9 := by
  apply eq_of_bits
  intro k hk
  rw [show (dataField _ _).getLsbD k = _ from BitVec.getLsbD_append, secondByte_eq]
  interval_cases k <;>
    simp [firstByte, enc16, enc8, addressMask, opcodeMask, validityProbeBit, dataMask]

/-- Read as the codec reads it (law L4 of 40_codec.md R89). -/
theorem decData_enc16 (a op : Byte) (d : Word16) :
    decData (firstByte (enc16 a op d)) (secondByte (enc16 a op d)) = d.setWidth 9 := by
  rw [decData_eq, dataField_enc16]

/-- A register address survives the codec's widening. -/
theorem addr_extract (a : RegAddr) : (a.setWidth 8).extractLsb' 0 4 = a := by
  apply eq_of_bits
  intro k hk
  interval_cases k <;> simp

/-- Operation bits survive the codec's widening. -/
theorem op_extract (op : OpBits) : (op.setWidth 8).extractLsb' 0 2 = op := by
  apply eq_of_bits
  intro k hk
  interval_cases k <;> simp

end Sys2Proof.Machine
end

