-- ==== Sys2Proof/Laws/State.lean ====
section
/-! SUPPORT. One lemma for each field and each update of the state, so that no proof unfolds a record update. -/

namespace Sys2Proof.Machine

/-! ### `emit` -/

@[simp] theorem emit_par (s : State) (e : Event) : (s.emit e).par = s.par := rfl
@[simp] theorem emit_current (s : State) (e : Event) : (s.emit e).current = s.current := rfl
@[simp] theorem emit_sess (s : State) (e : Event) : (s.emit e).sess = s.sess := rfl
@[simp] theorem emit_parked (s : State) (e : Event) : (s.emit e).parked = s.parked := rfl
@[simp] theorem emit_lines (s : State) (e : Event) : (s.emit e).lines = linesAfter e s.lines := rfl
@[simp] theorem emit_seq (s : State) (e : Event) : (s.emit e).seq = s.seq := rfl
@[simp] theorem emit_hist (s : State) (e : Event) : (s.emit e).hist = s.hist ++ [e] := rfl
@[simp] theorem emit_env (s : State) (e : Event) : (s.emit e).env = s.env.notice e := rfl
@[simp] theorem emit_pending (s : State) (e : Event) : (s.emit e).pending = s.pending := rfl
@[simp] theorem emit_responses (s : State) (e : Event) : (s.emit e).responses = s.responses := rfl
@[simp] theorem emit_draws (s : State) (e : Event) : (s.emit e).draws = s.draws := rfl

/-! ### `setNest` -/

@[simp] theorem setNest_par (s : State) (v : Nat) : (s.setNest v).par = s.par := rfl
@[simp] theorem setNest_current (s : State) (v : Nat) : (s.setNest v).current = s.current := rfl
@[simp] theorem setNest_sess (s : State) (v : Nat) : (s.setNest v).sess = { s.sess with nest := v } := rfl
@[simp] theorem setNest_parked (s : State) (v : Nat) : (s.setNest v).parked = s.parked := rfl
@[simp] theorem setNest_lines (s : State) (v : Nat) : (s.setNest v).lines = s.lines := rfl
@[simp] theorem setNest_seq (s : State) (v : Nat) : (s.setNest v).seq = s.seq := rfl
@[simp] theorem setNest_hist (s : State) (v : Nat) : (s.setNest v).hist = s.hist := rfl
@[simp] theorem setNest_env (s : State) (v : Nat) : (s.setNest v).env = s.env := rfl
@[simp] theorem setNest_pending (s : State) (v : Nat) : (s.setNest v).pending = s.pending := rfl
@[simp] theorem setNest_responses (s : State) (v : Nat) : (s.setNest v).responses = s.responses := rfl
@[simp] theorem setNest_draws (s : State) (v : Nat) : (s.setNest v).draws = s.draws := rfl

/-! ### `drawn` -/

@[simp] theorem drawn_par (s : State) : (s.drawn).par = s.par := rfl
@[simp] theorem drawn_current (s : State) : (s.drawn).current = s.current := rfl
@[simp] theorem drawn_sess (s : State) : (s.drawn).sess = s.sess := rfl
@[simp] theorem drawn_parked (s : State) : (s.drawn).parked = s.parked := rfl
@[simp] theorem drawn_lines (s : State) : (s.drawn).lines = s.lines := rfl
@[simp] theorem drawn_seq (s : State) : (s.drawn).seq = s.seq := rfl
@[simp] theorem drawn_hist (s : State) : (s.drawn).hist = s.hist := rfl
@[simp] theorem drawn_env (s : State) : (s.drawn).env = s.env := rfl
@[simp] theorem drawn_pending (s : State) : (s.drawn).pending = s.pending := rfl
@[simp] theorem drawn_responses (s : State) : (s.drawn).responses = s.responses := rfl
@[simp] theorem drawn_draws (s : State) : (s.drawn).draws = s.draws + 1 := rfl

/-! ### `start` -/

@[simp] theorem start_par (s : State) (i : Instr) : (s.start i).par = s.par := rfl
@[simp] theorem start_current (s : State) (i : Instr) : (s.start i).current = s.current := rfl
@[simp] theorem start_sess (s : State) (i : Instr) : (s.start i).sess = s.sess := rfl
@[simp] theorem start_parked (s : State) (i : Instr) : (s.start i).parked = s.parked := rfl
@[simp] theorem start_lines (s : State) (i : Instr) : (s.start i).lines = s.lines := rfl
@[simp] theorem start_seq (s : State) (i : Instr) : (s.start i).seq = .busy i 0 := rfl
@[simp] theorem start_hist (s : State) (i : Instr) : (s.start i).hist = s.hist := rfl
@[simp] theorem start_env (s : State) (i : Instr) : (s.start i).env = s.env := rfl
@[simp] theorem start_pending (s : State) (i : Instr) : (s.start i).pending = s.pending := rfl
@[simp] theorem start_responses (s : State) (i : Instr) : (s.start i).responses = s.responses := rfl
@[simp] theorem start_draws (s : State) (i : Instr) : (s.start i).draws = s.draws := rfl

/-! ### `finish` -/

@[simp] theorem finish_par (s : State) (r : Response) : (s.finish r).par = s.par := rfl
@[simp] theorem finish_current (s : State) (r : Response) : (s.finish r).current = s.current := rfl
@[simp] theorem finish_sess (s : State) (r : Response) : (s.finish r).sess = s.sess := rfl
@[simp] theorem finish_parked (s : State) (r : Response) : (s.finish r).parked = s.parked := rfl
@[simp] theorem finish_lines (s : State) (r : Response) : (s.finish r).lines = s.lines := rfl
@[simp] theorem finish_seq (s : State) (r : Response) : (s.finish r).seq = .idle := rfl
@[simp] theorem finish_hist (s : State) (r : Response) : (s.finish r).hist = s.hist := rfl
@[simp] theorem finish_env (s : State) (r : Response) : (s.finish r).env = s.env := rfl
@[simp] theorem finish_pending (s : State) (r : Response) : (s.finish r).pending = s.pending := rfl
@[simp] theorem finish_responses (s : State) (r : Response) : (s.finish r).responses = s.responses ++ [r] := rfl
@[simp] theorem finish_draws (s : State) (r : Response) : (s.finish r).draws = s.draws := rfl

/-! ### `after` -/

@[simp] theorem after_par (s : State) (evs : List Event) (e : Env) (d : Nat) (r : Response) : (s.after evs e d r).par = s.par := rfl
@[simp] theorem after_current (s : State) (evs : List Event) (e : Env) (d : Nat) (r : Response) : (s.after evs e d r).current = s.current := rfl
@[simp] theorem after_sess (s : State) (evs : List Event) (e : Env) (d : Nat) (r : Response) : (s.after evs e d r).sess = s.sess := rfl
@[simp] theorem after_parked (s : State) (evs : List Event) (e : Env) (d : Nat) (r : Response) : (s.after evs e d r).parked = s.parked := rfl
@[simp] theorem after_lines (s : State) (evs : List Event) (e : Env) (d : Nat) (r : Response) : (s.after evs e d r).lines = s.lines := rfl
@[simp] theorem after_seq (s : State) (evs : List Event) (e : Env) (d : Nat) (r : Response) : (s.after evs e d r).seq = s.seq := rfl
@[simp] theorem after_hist (s : State) (evs : List Event) (e : Env) (d : Nat) (r : Response) : (s.after evs e d r).hist = s.hist ++ evs := rfl
@[simp] theorem after_env (s : State) (evs : List Event) (e : Env) (d : Nat) (r : Response) : (s.after evs e d r).env = e := rfl
@[simp] theorem after_pending (s : State) (evs : List Event) (e : Env) (d : Nat) (r : Response) : (s.after evs e d r).pending = s.pending := rfl
@[simp] theorem after_responses (s : State) (evs : List Event) (e : Env) (d : Nat) (r : Response) : (s.after evs e d r).responses = s.responses ++ [r] := rfl
@[simp] theorem after_draws (s : State) (evs : List Event) (e : Env) (d : Nat) (r : Response) : (s.after evs e d r).draws = d := rfl

/-! ### `requestNext` -/

@[simp] theorem requestNext_par (s : State) (f : Frame) : (s.requestNext f).par = s.par := rfl
@[simp] theorem requestNext_current (s : State) (f : Frame) : (s.requestNext f).current = s.current := rfl
@[simp] theorem requestNext_sess (s : State) (f : Frame) : (s.requestNext f).sess = s.sess := rfl
@[simp] theorem requestNext_parked (s : State) (f : Frame) : (s.requestNext f).parked = s.parked := rfl
@[simp] theorem requestNext_lines (s : State) (f : Frame) : (s.requestNext f).lines = s.lines := rfl
@[simp] theorem requestNext_seq (s : State) (f : Frame) : (s.requestNext f).seq = s.seq := rfl
@[simp] theorem requestNext_hist (s : State) (f : Frame) : (s.requestNext f).hist = s.hist := rfl
@[simp] theorem requestNext_env (s : State) (f : Frame) : (s.requestNext f).env = s.env := rfl
@[simp] theorem requestNext_pending (s : State) (f : Frame) : (s.requestNext f).pending = { session := s.current, frame := f } :: s.pending := rfl
@[simp] theorem requestNext_responses (s : State) (f : Frame) : (s.requestNext f).responses = s.responses := rfl
@[simp] theorem requestNext_draws (s : State) (f : Frame) : (s.requestNext f).draws = s.draws := rfl

/-! ### `transferByte` -/

@[simp] theorem transferByte_par (s : State) (tx : Byte) : ((transferByte tx s).2).par = s.par := rfl
@[simp] theorem transferByte_current (s : State) (tx : Byte) : ((transferByte tx s).2).current = s.current := rfl
@[simp] theorem transferByte_sess (s : State) (tx : Byte) : ((transferByte tx s).2).sess = s.sess := rfl
@[simp] theorem transferByte_parked (s : State) (tx : Byte) : ((transferByte tx s).2).parked = s.parked := rfl
@[simp] theorem transferByte_lines (s : State) (tx : Byte) : ((transferByte tx s).2).lines = s.lines := rfl
@[simp] theorem transferByte_seq (s : State) (tx : Byte) : ((transferByte tx s).2).seq = s.seq.bump := rfl
@[simp] theorem transferByte_hist (s : State) (tx : Byte) : ((transferByte tx s).2).hist = s.hist ++ [.xfer tx (transferByte tx s).1] := rfl
@[simp] theorem transferByte_env (s : State) (tx : Byte) : ((transferByte tx s).2).env = (s.env.answer s.par s.draws tx).2 := rfl
@[simp] theorem transferByte_pending (s : State) (tx : Byte) : ((transferByte tx s).2).pending = s.pending := rfl
@[simp] theorem transferByte_responses (s : State) (tx : Byte) : ((transferByte tx s).2).responses = s.responses := rfl
@[simp] theorem transferByte_draws (s : State) (tx : Byte) : ((transferByte tx s).2).draws = s.draws + 1 := rfl

end Sys2Proof.Machine
end

