-- ==== Sys2Proof/Laws/Ops.lean ====
section
/-! SUPPORT. One lemma for each shared operation, saying once everything it does: what an answer takes from the
environment, what a critical section leaves, the two transfers, the TCON update, and the whole of an operation. -/

namespace Sys2Proof.Machine

/-! ### What an operation touches -/

/-- `s` after events `evs`, with the environment, the count of draws and the sequencer position as given: no operation
touches anything else between its `SELECT` and its `DESELECT`. -/
def State.ran (s : State) (evs : List Event) (e : Env) (d : Nat) (q : Seq) : State :=
  { s with hist := s.hist ++ evs, env := e, draws := d, seq := q }

@[simp] theorem ran_par (s : State) (evs : List Event) (e : Env) (d : Nat) (q : Seq) :
    (s.ran evs e d q).par = s.par := rfl
@[simp] theorem ran_sess (s : State) (evs : List Event) (e : Env) (d : Nat) (q : Seq) :
    (s.ran evs e d q).sess = s.sess := rfl
@[simp] theorem ran_lines (s : State) (evs : List Event) (e : Env) (d : Nat) (q : Seq) :
    (s.ran evs e d q).lines = s.lines := rfl
@[simp] theorem ran_env (s : State) (evs : List Event) (e : Env) (d : Nat) (q : Seq) :
    (s.ran evs e d q).env = e := rfl
@[simp] theorem ran_draws (s : State) (evs : List Event) (e : Env) (d : Nat) (q : Seq) :
    (s.ran evs e d q).draws = d := rfl
@[simp] theorem ran_seq (s : State) (evs : List Event) (e : Env) (d : Nat) (q : Seq) :
    (s.ran evs e d q).seq = q := rfl
@[simp] theorem ran_framed (s : State) (evs evs' : List Event) (e : Env) (d : Nat) (q : Seq) :
    (s.ran evs e d q).framed evs' = s.framed evs' := rfl
@[simp] theorem ran_drawn (s : State) (evs : List Event) (e : Env) (d : Nat) (q : Seq) :
    (s.ran evs e d q).drawn = s.ran evs e (d + 1) q := rfl

/-- Two runs one after the other are one. -/
@[simp] theorem ran_ran (s : State) (evs evs' : List Event) (e e' : Env) (d d' : Nat) (q q' : Seq) :
    (s.ran evs e d q).ran evs' e' d' q' = s.ran (evs ++ evs') e' d' q' := by
  simp [State.ran]

/-! ### The environment -/

/-- One answer is supplied by the environment, whatever it is. -/
theorem answer_supplies (P : Params) (n : Nat) (tx : Byte) (e : Env) :
    e.Supplies [(e.answer P n tx).1] (e.answer P n tx).2 := by
  match e with
  | .oracle [] => simp [Env.Supplies, Env.answer]
  | .oracle (rx :: rest) => simp [Env.Supplies, Env.answer]
  | .constant rx => simp [Env.Supplies, Env.answer]
  | .responder r => exact ⟨_, rfl⟩

/-- Answers supplied one after the other are supplied together. -/
theorem Env.Supplies.append {e e1 e2 : Env} {xs ys : List Byte}
    (h1 : e.Supplies xs e1) (h2 : e1.Supplies ys e2) : e.Supplies (xs ++ ys) e2 := by
  match e with
  | .oracle script =>
    obtain ⟨hx, rfl⟩ := h1
    obtain ⟨hy, rfl⟩ := h2
    refine ⟨?_, by simp [List.drop_drop]⟩
    rw [List.take_append, List.length_append, List.take_add, hx]
    simp only [List.length_drop] at hy
    rw [hy]
  | .constant rx =>
    obtain ⟨hx, rfl⟩ := h1
    obtain ⟨hy, rfl⟩ := h2
    refine ⟨?_, rfl⟩
    rw [List.length_append, List.replicate_add, ← hx, ← hy]
  | .responder r =>
    obtain ⟨r1, rfl⟩ := h1
    exact h2

/-- Taking notice of an event takes no answer. -/
theorem Env.Supplies.of_notice {e e' : Env} {xs : List Byte} (v : Event)
    (h : (e.notice v).Supplies xs e') : e.Supplies xs e' := by
  match e, v with
  | .oracle _, _ => exact h
  | .constant _, _ => exact h
  | .responder _, .busMode _ => exact h
  | .responder _, .assertLine _ => exact h
  | .responder _, .deassertLine _ => exact h
  | .responder _, .xfer _ _ => exact h

/-- An event noticed at the end takes no answer. -/
theorem Env.Supplies.notice {e e' : Env} {xs : List Byte} (v : Event)
    (h : e.Supplies xs e') : e.Supplies xs (e'.notice v) := by
  match e with
  | .oracle _ => obtain ⟨hx, rfl⟩ := h; exact ⟨hx, rfl⟩
  | .constant _ => obtain ⟨hx, rfl⟩ := h; exact ⟨hx, rfl⟩
  | .responder _ =>
    obtain ⟨r', rfl⟩ := h
    match v with
    | .busMode _ => exact ⟨_, rfl⟩
    | .assertLine _ => exact ⟨_, rfl⟩
    | .deassertLine _ => exact ⟨_, rfl⟩
    | .xfer _ _ => exact ⟨_, rfl⟩

/-! ### The critical section -/

/-- The line is asserted exactly when it is listed. -/
theorem lineLevel_asserted (s : State) (id : SelectId) : s.lineLevel id = .asserted ↔ id ∈ s.lines := by
  unfold State.lineLevel
  split <;> simp [*]

/-- `LineAgrees`, by membership. -/
theorem lineAgrees_iff (s : State) : s.LineAgrees ↔ (s.sess.cfg.selectId ∈ s.lines ↔ 0 < s.sess.nest) := by
  unfold State.LineAgrees State.cs
  rw [lineLevel_asserted]

/-- A run keeps the line's agreement with the counter. -/
theorem ran_lineAgrees (s : State) (evs : List Event) (e : Env) (d : Nat) (q : Seq) (h : s.LineAgrees) :
    (s.ran evs e d q).LineAgrees := h

/-- `SELECT` of an unselected session (41_select_transfer.md R91). -/
theorem selectLine_outer (s : State) (h : s.sess.nest = 0) :
    selectLine s =
      ((s.setNest 1).emit (.busMode s.par.busCfg)).emit (.assertLine s.sess.cfg.selectId) := by
  simp [selectLine, h]

/-- `SELECT` of a selected session only counts. -/
theorem selectLine_inner (s : State) (h : s.sess.nest ≠ 0) : selectLine s = s.setNest (s.sess.nest + 1) := by
  simp [selectLine, h]

/-- `DESELECT` at 0 (41_select_transfer.md R92, its floor). -/
theorem deselectLine_floor (s : State) (h : s.sess.nest = 0) : deselectLine s = s := by
  simp [deselectLine, h]

/-- `DESELECT` of a session selected once. -/
theorem deselectLine_outer (s : State) (h : s.sess.nest = 1) :
    deselectLine s = (s.setNest 0).emit (.deassertLine s.sess.cfg.selectId) := by
  simp [deselectLine, h]

/-- `DESELECT` of a session selected more than once only counts. -/
theorem deselectLine_inner (s : State) (h : 1 < s.sess.nest) : deselectLine s = s.setNest (s.sess.nest - 1) := by
  have h0 : s.sess.nest ≠ 0 := by omega
  have h1 : s.sess.nest - 1 ≠ 0 := by omega
  simp [deselectLine, h0, h1]

/-- A line taken out that was not there. -/
theorem filter_absent (id : SelectId) (lines : List SelectId) (h : id ∉ lines) :
    lines.filter (fun l => l != id) = lines := by
  refine List.filter_eq_self.2 fun l hl => ?_
  simp only [bne_iff_ne, ne_eq]
  rintro rfl
  exact h hl

/-- The environment after a critical section that ended with `e`: it has noticed the `Deassert`, if there was one. -/
def State.released (s : State) (e : Env) : Env :=
  if s.sess.nest = 0 then e.notice (.deassertLine s.sess.cfg.selectId) else e

/-- `SELECT`, a run, and `DESELECT` (41_select_transfer.md R94, R97): the session and the lines are as before and the
events are framed. -/
theorem section_restores (s : State) (h : s.LineAgrees) (evs : List Event) (e : Env) (d : Nat) (q : Seq) :
    deselectLine ((selectLine s).ran evs e d q) = s.ran (s.framed evs) (s.released e) d q := by
  rw [lineAgrees_iff] at h
  obtain ⟨par, current, ⟨cfg, mx, nest⟩, parked, lines, seq, hist, env, pending, responses, draws⟩ := s
  by_cases hn : nest = 0
  · subst hn
    have hid : cfg.selectId ∉ lines := by simpa using h
    simp [selectLine, deselectLine, State.setNest, State.emit, State.framed, State.released, State.ran, linesAfter,
      hid, filter_absent]
  · simp [selectLine, deselectLine, State.setNest, State.framed, State.released, State.ran, hn]

/-- The environment's answers within a critical section are answers from its outside. -/
theorem Env.Supplies.within {s : State} {xs : List Byte} {e : Env}
    (h : (selectLine s).env.Supplies xs e) : s.env.Supplies xs (s.released e) := by
  unfold State.released
  by_cases hn : s.sess.nest = 0
  · rw [selectLine_outer s hn, emit_env, emit_env] at h
    rw [if_pos hn]
    exact (Env.Supplies.of_notice _ (Env.Supplies.of_notice _ h)).notice _
  · rw [selectLine_inner s hn] at h
    rw [if_neg hn]
    exact h

/-- Inside a critical section the line agrees with the counter. -/
theorem selectLine_lineAgrees (s : State) (h : s.LineAgrees) : (selectLine s).LineAgrees := by
  rw [lineAgrees_iff] at *
  by_cases hn : s.sess.nest = 0
  · rw [selectLine_outer s hn]
    by_cases hid : s.sess.cfg.selectId ∈ s.lines <;> simp [linesAfter, hid]
  · rw [selectLine_inner s hn]
    simp only [setNest_sess, setNest_lines]
    rw [h]
    omega

@[simp] theorem selectLine_nest (s : State) : (selectLine s).sess.nest = s.sess.nest + 1 := by
  unfold selectLine
  split <;> rfl

@[simp] theorem selectLine_cfg (s : State) : (selectLine s).sess.cfg = s.sess.cfg := by
  unfold selectLine
  split <;> rfl

@[simp] theorem selectLine_par (s : State) : (selectLine s).par = s.par := by
  unfold selectLine
  split <;> rfl

/-- Inside a critical section events stand bare. -/
@[simp] theorem framed_selectLine (s : State) (evs : List Event) : (selectLine s).framed evs = evs := by
  simp [State.framed]

/-- Inside a critical section nothing is released. -/
@[simp] theorem released_selectLine (s : State) (e : Env) : (selectLine s).released e = e := by
  simp [State.released]

/-! ### The transfers -/

/-- A byte exchange is a run of one event, with the environment's answer (20_memory.md R35). -/
theorem transferByte_eq (tx : Byte) (s : State) :
    transferByte tx s = ((s.env.answer s.par s.draws tx).1,
      s.ran [.xfer tx (s.env.answer s.par s.draws tx).1] (s.env.answer s.par s.draws tx).2 (s.draws + 1) s.seq.bump) :=
  rfl

/-- What a byte exchange returns and leaves (20_memory.md R35). -/
theorem transferByte_spec (tx : Byte) (s : State) :
    ∃ rx e d q, s.env.Supplies [rx] e ∧ transferByte tx s = (rx, s.ran [.xfer tx rx] e d q) :=
  ⟨_, _, _, _, answer_supplies s.par s.draws tx s.env, rfl⟩

/-- `XFER8`, whole (41_select_transfer.md R95, R97). -/
theorem xfer8_spec (addr : Byte) (op : OpBits) (s : State) (h : s.LineAgrees) :
    ∃ rx e d q, s.env.Supplies [rx] e ∧
      xfer8 addr op s =
        (rx.getLsbD 1, s.ran (s.framed [.xfer (enc8 addr (op.setWidth 8)) rx]) e d q) := by
  obtain ⟨rx, e, d, q, hs, ht⟩ := transferByte_spec (enc8 addr (op.setWidth 8)) (selectLine s)
  refine ⟨rx, _, d, q, hs.within, ?_⟩
  simp only [xfer8, failRelease, ht, ite_self, isValid_eq, section_restores s h]

/-- `XFER16`, whole (41_select_transfer.md R96, R97): both bytes and the decoded data where the first reply is valid, one
byte and a free value where it is not. -/
theorem xfer16_spec (addr : Byte) (op : OpBits) (data : Word16) (s : State) (h : s.LineAgrees) :
    (∃ rx1 rx2 e d q, rx1.getLsbD 1 = true ∧ s.env.Supplies [rx1, rx2] e ∧
      xfer16 addr op data s =
        ((true, decData rx1 rx2),
          s.ran (s.framed
            [.xfer (firstByte (enc16 addr (op.setWidth 8) data)) rx1,
             .xfer (secondByte (enc16 addr (op.setWidth 8) data)) rx2]) e d q)) ∨
    (∃ rx1 v e d q, rx1.getLsbD 1 = false ∧ s.env.Supplies [rx1] e ∧
      xfer16 addr op data s =
        ((false, v),
          s.ran (s.framed [.xfer (firstByte (enc16 addr (op.setWidth 8) data)) rx1]) e d q)) := by
  obtain ⟨rx1, e1, d1, q1, hs1, ht1⟩ :=
    transferByte_spec (firstByte (enc16 addr (op.setWidth 8) data)) (selectLine s)
  cases hv : rx1.getLsbD 1 with
  | true =>
    left
    obtain ⟨rx2, e2, d2, q2, hs2, ht2⟩ := transferByte_spec (secondByte (enc16 addr (op.setWidth 8) data))
      ((selectLine s).ran [.xfer (firstByte (enc16 addr (op.setWidth 8) data)) rx1] e1 d1 q1)
    refine ⟨rx1, rx2, _, d2, q2, hv, (hs1.append hs2).within, ?_⟩
    simp only [xfer16, ht1, isValid_eq, hv, if_true, ht2, ran_ran, List.cons_append, List.nil_append,
      section_restores s h]
  | false =>
    right
    refine ⟨rx1, Config.any9 d1, _, d1 + 1, q1, hv, hs1.within, ?_⟩
    simp only [xfer16, ht1, isValid_eq, hv, Bool.false_eq_true, if_false, draw9, failRelease, section_restores s h,
      ran_drawn]
    rfl

/-- The environment inside the critical section of `s`: it has noticed `BusMode` and `Assert`, if there were any. -/
def State.entered (s : State) : Env :=
  if s.sess.nest = 0 then (s.env.notice (.busMode s.par.busCfg)).notice (.assertLine s.sess.cfg.selectId) else s.env

theorem selectLine_env (s : State) : (selectLine s).env = s.entered := by
  unfold State.entered
  by_cases h : s.sess.nest = 0
  · rw [selectLine_outer s h, if_pos h]; rfl
  · rw [selectLine_inner s h, if_neg h]; rfl

@[simp] theorem selectLine_draws (s : State) : (selectLine s).draws = s.draws := by
  unfold selectLine
  split <;> rfl

/-- `XFER16` where the environment's first answer is valid: exactly what comes back, and the environment after. -/
theorem xfer16_valid (addr : Byte) (op : OpBits) (data : Word16) (s : State) (h : s.LineAgrees)
    {rx1 rx2 : Byte} {e1 e2 : Env}
    (h1 : s.entered.answer s.par s.draws (firstByte (enc16 addr (op.setWidth 8) data)) = (rx1, e1))
    (h2 : e1.answer s.par (s.draws + 1) (secondByte (enc16 addr (op.setWidth 8) data)) = (rx2, e2))
    (hv : rx1.getLsbD 1 = true) :
    ∃ q, xfer16 addr op data s =
      ((true, decData rx1 rx2), s.ran (s.framed
        [.xfer (firstByte (enc16 addr (op.setWidth 8) data)) rx1,
         .xfer (secondByte (enc16 addr (op.setWidth 8) data)) rx2]) (s.released e2) (s.draws + 2) q) := by
  have ht1 : transferByte (firstByte (enc16 addr (op.setWidth 8) data)) (selectLine s) =
      (rx1, (selectLine s).ran [.xfer (firstByte (enc16 addr (op.setWidth 8) data)) rx1] e1 (s.draws + 1)
        (selectLine s).seq.bump) := by
    rw [transferByte_eq, selectLine_env, selectLine_par, selectLine_draws, h1]
  have ht2 : transferByte (secondByte (enc16 addr (op.setWidth 8) data))
      ((selectLine s).ran [.xfer (firstByte (enc16 addr (op.setWidth 8) data)) rx1] e1 (s.draws + 1)
        (selectLine s).seq.bump) =
      (rx2, (selectLine s).ran
        ([.xfer (firstByte (enc16 addr (op.setWidth 8) data)) rx1] ++
          [.xfer (secondByte (enc16 addr (op.setWidth 8) data)) rx2]) e2 (s.draws + 2)
        (selectLine s).seq.bump.bump) := by
    rw [transferByte_eq, ran_env, ran_par, ran_draws, ran_seq, selectLine_par, h2, ran_ran]
  refine ⟨(selectLine s).seq.bump.bump, ?_⟩
  simp only [xfer16, ht1, ht2, isValid_eq, hv, if_true, List.cons_append, List.nil_append, section_restores s h]

/-- `SETTCON`, whole (43_tcon_status.md R113): the read refused, the write refused, or both valid. -/
theorem setTcon_spec (mask : FlagMask) (value : Bool) (s : State) (h : s.LineAgrees) :
    let r := enc16 (busAddr s.par.addrTcon) (s.par.opRead.setWidth 8) readDummy
    let w := fun rx1 rx2 : Byte => enc16 (busAddr s.par.addrTcon) (s.par.opWrite.setWidth 8)
      ((tconNew (decData rx1 rx2) (unitMask s.sess.cfg.unit mask) value).setWidth 16)
    (∃ rx1 e d q, rx1.getLsbD 1 = false ∧ s.env.Supplies [rx1] e ∧
      setTcon mask value s = (false, s.ran (s.framed [.xfer (firstByte r) rx1]) e d q)) ∨
    (∃ rx1 rx2 rx3 e d q, rx1.getLsbD 1 = true ∧ rx3.getLsbD 1 = false ∧ s.env.Supplies [rx1, rx2, rx3] e ∧
      setTcon mask value s =
        (false, s.ran (s.framed
          [.xfer (firstByte r) rx1, .xfer (secondByte r) rx2, .xfer (firstByte (w rx1 rx2)) rx3]) e d q)) ∨
    (∃ rx1 rx2 rx3 rx4 e d q, rx1.getLsbD 1 = true ∧ rx3.getLsbD 1 = true ∧
      s.env.Supplies [rx1, rx2, rx3, rx4] e ∧
      setTcon mask value s =
        (true, s.ran (s.framed
          [.xfer (firstByte r) rx1, .xfer (secondByte r) rx2,
           .xfer (firstByte (w rx1 rx2)) rx3, .xfer (secondByte (w rx1 rx2)) rx4]) e d q)) := by
  intro r w
  have h1 := selectLine_lineAgrees s h
  rcases xfer16_spec (busAddr s.par.addrTcon) s.par.opRead readDummy (selectLine s) h1 with
    ⟨rx1, rx2, e1, d1, q1, hv1, hs1, hx1⟩ | ⟨rx1, v, e1, d1, q1, hv1, hs1, hx1⟩
  · right
    rw [framed_selectLine] at hx1
    have h2 := ran_lineAgrees (selectLine s)
      [.xfer (firstByte r) rx1, .xfer (secondByte r) rx2] e1 d1 q1 h1
    rcases xfer16_spec (busAddr s.par.addrTcon) s.par.opWrite
        ((tconNew (decData rx1 rx2) (unitMask s.sess.cfg.unit mask) value).setWidth 16) _ h2 with
      ⟨rx3, rx4, e2, d2, q2, hv2, hs2, hx2⟩ | ⟨rx3, v, e2, d2, q2, hv2, hs2, hx2⟩
    · right
      refine ⟨rx1, rx2, rx3, rx4, _, d2, q2, hv1, hv2, (hs1.append hs2).within, ?_⟩
      simp only [r, ran_ran, ran_framed, framed_selectLine] at hx2
      simp only [setTcon, memRead, memWrite, selectLine_par, selectLine_cfg, hx1, if_true, ran_par, hx2,
        section_restores s h]
      rfl
    · left
      refine ⟨rx1, rx2, rx3, _, d2, q2, hv1, hv2, (hs1.append hs2).within, ?_⟩
      simp only [r, ran_ran, ran_framed, framed_selectLine] at hx2
      simp only [setTcon, memRead, memWrite, selectLine_par, selectLine_cfg, hx1, if_true, ran_par, hx2,
        section_restores s h]
      rfl
  · left
    rw [framed_selectLine] at hx1
    refine ⟨rx1, _, d1, q1, hv1, hs1.within, ?_⟩
    simp only [setTcon, memRead, failRelease, selectLine_par, hx1, Bool.false_eq_true, if_false,
      section_restores s h]
    rfl

/-! ### One operation, whole -/

/-- An accepted operation answers a next state: that of its body, finished. -/
theorem perform_ready (i : Instr) (depth : Nat) (body : State → Response × State) (s : State)
    (h : s.Ready depth) :
    perform i depth body s = .next ((body (s.start i)).2.finish (body (s.start i)).1) := by
  have hr : s.hasRoom depth = true := by
    simp only [State.hasRoom, Bool.or_eq_true, beq_iff_eq]
    exact Or.inr (Nat.ble_eq_true_of_le h.2)
  simp [perform, h.1, Seq.isIdle, hr]

/-- An operation that makes no `SELECT` needs no room. -/
theorem perform_idle (i : Instr) (body : State → Response × State) (s : State) (h : s.seq = .idle) :
    perform i 0 body s = .next ((body (s.start i)).2.finish (body (s.start i)).1) := by
  simp [perform, h, Seq.isIdle, State.hasRoom]

/-- An operation that answers a next state was accepted, and that state is its body's, finished. -/
theorem perform_next {i : Instr} {depth : Nat} {body : State → Response × State} {s t : State}
    (h : perform i depth body s = .next t) :
    s.seq = .idle ∧ (depth = 0 ∨ s.sess.nest + depth ≤ s.par.nestMax) ∧
      t = (body (s.start i)).2.finish (body (s.start i)).1 := by
  unfold perform at h
  split at h
  · rename_i hi
    split at h
    · rename_i hr
      refine ⟨?_, ?_, by simpa using h.symm⟩
      · cases hq : s.seq with
        | idle => rfl
        | busy op k => simp [hq, Seq.isIdle] at hi
      · simp only [State.hasRoom, Bool.or_eq_true, beq_iff_eq] at hr
        exact hr.imp id Nat.le_of_ble_eq_true
    · cases h
  · cases h

/-- The line agrees with the counter in a started operation as before it. -/
theorem start_lineAgrees (s : State) (i : Instr) (h : s.LineAgrees) : (s.start i).LineAgrees := h

@[simp] theorem start_framed (s : State) (i : Instr) (evs : List Event) : (s.start i).framed evs = s.framed evs := rfl

/-- A run of a started operation, finished, is `after`. -/
@[simp] theorem finish_ran (s : State) (i : Instr) (evs : List Event) (e : Env) (d : Nat) (q : Seq) (r : Response)
    (hq : s.seq = .idle) : ((s.start i).ran evs e d q).finish r = s.after evs e d r := by
  cases s
  cases hq
  rfl

end Sys2Proof.Machine
end

