-- ==== Sys2Proof/Laws/Exec.lean ====
section
/-! SUPPORT. Every instruction as one operation: its body, its depth, and what a body can never touch. A proof about all
instructions goes by these and does not unfold a meaning. -/

namespace Sys2Proof.Machine

/-! ### Every meaning is one `perform` -/

/-- The body of each instruction: the response and the state, from the started state. -/
def bodyOf : Instr → State → Response × State
  | .cmdWrite addr data, s => (.ok (memWrite addr data s).1, (memWrite addr data s).2)
  | .cmdRead addr, s => (.okData (memRead addr s).1.1 (memRead addr s).1.2, (memRead addr s).2)
  | .cmdIncr addr, s => (.ok (xfer8 addr s.par.opInc s).1, (xfer8 addr s.par.opInc s).2)
  | .cmdDecr addr, s => (.ok (xfer8 addr s.par.opDec s).1, (xfer8 addr s.par.opDec s).2)
  | .maxval, s => (.value s.sess.maxValue, s)
  | .incr, s => (.ok (xfer8 s.wiper s.par.opInc s).1, (xfer8 s.wiper s.par.opInc s).2)
  | .decr, s => (.ok (xfer8 s.wiper s.par.opDec s).1, (xfer8 s.wiper s.par.opDec s).2)
  | .set value, s => (.ok (setWiper value s).1, (setWiper value s).2)
  | .get, s => (.okValue (getWiper s).1.1 (getWiper s).1.2, (getWiper s).2)
  | .getv, s => (.value (if (getWiper s).1.1 then (getWiper s).1.2 else getSentinel), (getWiper s).2)
  | .setta flag, s => (.ok (setTcon s.par.maskTermA flag s).1, (setTcon s.par.maskTermA flag s).2)
  | .getta, s => (.okFlag (getTcon s.par.maskTermA s).1.1 (getTcon s.par.maskTermA s).1.2,
      (getTcon s.par.maskTermA s).2)
  | .gettav, s => (.flag (convenience (getTcon s.par.maskTermA s)).1,
      (convenience (getTcon s.par.maskTermA s)).2)
  | .settb flag, s => (.ok (setTcon s.par.maskTermB flag s).1, (setTcon s.par.maskTermB flag s).2)
  | .gettb, s => (.okFlag (getTcon s.par.maskTermB s).1.1 (getTcon s.par.maskTermB s).1.2,
      (getTcon s.par.maskTermB s).2)
  | .gettbv, s => (.flag (convenience (getTcon s.par.maskTermB s)).1,
      (convenience (getTcon s.par.maskTermB s)).2)
  | .setw flag, s => (.ok (setTcon s.par.maskWiper flag s).1, (setTcon s.par.maskWiper flag s).2)
  | .getw, s => (.okFlag (getTcon s.par.maskWiper s).1.1 (getTcon s.par.maskWiper s).1.2,
      (getTcon s.par.maskWiper s).2)
  | .getwv, s => (.flag (convenience (getTcon s.par.maskWiper s)).1,
      (convenience (getTcon s.par.maskWiper s)).2)
  | .setshdn shutdown, s => (.ok (setTcon s.par.maskShdn (!shutdown) s).1,
      (setTcon s.par.maskShdn (!shutdown) s).2)
  | .getshdn, s => (.okFlag (getShutdown s).1.1 (getShutdown s).1.2, (getShutdown s).2)
  | .getshdnv, s => (.flag (convenience (getShutdown s)).1, (convenience (getShutdown s)).2)
  | .gethwshdn, s => (.okFlag (getHwShutdown s).1.1 (getHwShutdown s).1.2, (getHwShutdown s).2)
  | .select, s => (.none, selectLine s)
  | .deselect, s => (.none, deselectLine s)

/-- Every meaning is its body, performed at its depth. -/
theorem exec_eq_perform (i : Instr) (s : State) : exec i s = perform i (depthOf i) (bodyOf i) s := by
  cases i <;> rfl

/-- An instruction with room answers its body's state, finished. -/
theorem exec_ready (i : Instr) (s : State) (h : s.Ready (depthOf i)) :
    exec i s = .next ((bodyOf i (s.start i)).2.finish (bodyOf i (s.start i)).1) := by
  rw [exec_eq_perform, perform_ready _ _ _ _ h]

/-- An instruction that makes no `SELECT` needs no room. -/
theorem exec_idle (i : Instr) (s : State) (hd : depthOf i = 0) (h : s.seq = .idle) :
    exec i s = .next ((bodyOf i (s.start i)).2.finish (bodyOf i (s.start i)).1) := by
  rw [exec_eq_perform, hd, perform_idle _ _ _ h]

/-- What an instruction that answers a next state has answered. -/
theorem exec_next {i : Instr} {s t : State} (h : exec i s = .next t) :
    s.seq = .idle ∧ (depthOf i = 0 ∨ s.sess.nest + depthOf i ≤ s.par.nestMax) ∧
      t = (bodyOf i (s.start i)).2.finish (bodyOf i (s.start i)).1 := by
  rw [exec_eq_perform] at h
  exact perform_next h

/-! ### What no body touches -/

/-- The fields no operation's body writes. -/
structure Kept (s t : State) : Prop where
  par : t.par = s.par
  current : t.current = s.current
  parked : t.parked = s.parked
  pending : t.pending = s.pending
  responses : t.responses = s.responses
  cfg : t.sess.cfg = s.sess.cfg
  maxValue : t.sess.maxValue = s.sess.maxValue

theorem Kept.refl (s : State) : Kept s s := ⟨rfl, rfl, rfl, rfl, rfl, rfl, rfl⟩

theorem Kept.trans {s t u : State} (h1 : Kept s t) (h2 : Kept t u) : Kept s u :=
  ⟨h2.par.trans h1.par, h2.current.trans h1.current, h2.parked.trans h1.parked, h2.pending.trans h1.pending,
    h2.responses.trans h1.responses, h2.cfg.trans h1.cfg, h2.maxValue.trans h1.maxValue⟩

theorem selectLine_kept (s : State) : Kept s (selectLine s) := by
  unfold selectLine
  split <;> exact ⟨rfl, rfl, rfl, rfl, rfl, rfl, rfl⟩

theorem deselectLine_kept (s : State) : Kept s (deselectLine s) := by
  unfold deselectLine
  split
  · exact Kept.refl s
  · split <;> exact ⟨rfl, rfl, rfl, rfl, rfl, rfl, rfl⟩

theorem transferByte_kept (tx : Byte) (s : State) : Kept s (transferByte tx s).2 :=
  ⟨rfl, rfl, rfl, rfl, rfl, rfl, rfl⟩

theorem drawn_kept (s : State) : Kept s s.drawn := ⟨rfl, rfl, rfl, rfl, rfl, rfl, rfl⟩

theorem xfer8_kept (addr : Byte) (op : OpBits) (s : State) : Kept s (xfer8 addr op s).2 := by
  simp only [xfer8, failRelease, ite_self]
  exact ((selectLine_kept s).trans (transferByte_kept _ _)).trans (deselectLine_kept _)

theorem xfer16_kept (addr : Byte) (op : OpBits) (data : Word16) (s : State) :
    Kept s (xfer16 addr op data s).2 := by
  have h := (selectLine_kept s).trans
    (transferByte_kept (firstByte (enc16 addr (op.setWidth 8) data)) (selectLine s))
  unfold xfer16
  simp only
  split
  · exact (h.trans (transferByte_kept _ _)).trans (deselectLine_kept _)
  · exact (h.trans (deselectLine_kept _)).trans (drawn_kept _)

theorem memRead_kept (addr : Byte) (s : State) : Kept s (memRead addr s).2 := xfer16_kept _ _ _ s

theorem memWrite_kept (addr : Byte) (v : Word16) (s : State) : Kept s (memWrite addr v s).2 := xfer16_kept _ _ _ s

theorem getWiper_kept (s : State) : Kept s (getWiper s).2 := by
  unfold getWiper
  simp only
  split
  · exact memRead_kept _ s
  · exact (memRead_kept _ s).trans (drawn_kept _)

theorem getTcon_kept (mask : FlagMask) (s : State) : Kept s (getTcon mask s).2 := by
  unfold getTcon
  simp only
  split
  · exact memRead_kept _ s
  · exact (memRead_kept _ s).trans (drawn_kept _)

theorem getHwShutdown_kept (s : State) : Kept s (getHwShutdown s).2 := by
  unfold getHwShutdown
  simp only
  split
  · exact memRead_kept _ s
  · exact (memRead_kept _ s).trans (drawn_kept _)

theorem getShutdown_kept (s : State) : Kept s (getShutdown s).2 := by
  unfold getShutdown
  simp only
  split
  · exact getTcon_kept _ s
  · exact (getTcon_kept _ s).trans (drawn_kept _)

theorem convenience_kept {s : State} (g : (Bool × Bool) × State) (h : Kept s g.2) : Kept s (convenience g).2 := by
  unfold convenience
  split
  · exact h
  · exact h.trans (drawn_kept _)

theorem setTcon_kept (mask : FlagMask) (value : Bool) (s : State) : Kept s (setTcon mask value s).2 := by
  have h := (selectLine_kept s).trans (memRead_kept (busAddr (selectLine s).par.addrTcon) (selectLine s))
  unfold setTcon
  simp only
  split
  · exact (h.trans (memWrite_kept _ _ _)).trans (deselectLine_kept _)
  · exact h.trans (deselectLine_kept _)

/-- No body writes a kept field. -/
theorem body_kept (i : Instr) (s : State) : Kept s (bodyOf i s).2 := by
  cases i with
  | cmdWrite addr data => exact memWrite_kept _ _ s
  | cmdRead addr => exact memRead_kept _ s
  | cmdIncr addr => exact xfer8_kept _ _ s
  | cmdDecr addr => exact xfer8_kept _ _ s
  | maxval => exact Kept.refl s
  | incr => exact xfer8_kept _ _ s
  | decr => exact xfer8_kept _ _ s
  | set value => exact memWrite_kept _ _ s
  | get => exact getWiper_kept s
  | getv => exact getWiper_kept s
  | setta flag => exact setTcon_kept _ _ s
  | getta => exact getTcon_kept _ s
  | gettav => exact convenience_kept _ (getTcon_kept _ s)
  | settb flag => exact setTcon_kept _ _ s
  | gettb => exact getTcon_kept _ s
  | gettbv => exact convenience_kept _ (getTcon_kept _ s)
  | setw flag => exact setTcon_kept _ _ s
  | getw => exact getTcon_kept _ s
  | getwv => exact convenience_kept _ (getTcon_kept _ s)
  | setshdn shutdown => exact setTcon_kept _ _ s
  | getshdn => exact getShutdown_kept s
  | getshdnv => exact convenience_kept _ (getShutdown_kept s)
  | gethwshdn => exact getHwShutdown_kept s
  | select => exact selectLine_kept s
  | deselect => exact deselectLine_kept s

/-! ### The results of the internal reads and updates -/

/-- A read of one register (20_memory.md R36), whole. -/
theorem memRead_spec (addr : Byte) (s : State) (h : s.LineAgrees) :
    (∃ rx1 rx2 e d q, rx1.getLsbD 1 = true ∧ s.env.Supplies [rx1, rx2] e ∧
      memRead addr s =
        ((true, decData rx1 rx2), s.ran (s.framed (longEvents addr s.par.opRead readDummy rx1 rx2)) e d q)) ∨
    (∃ rx1 v e d q, rx1.getLsbD 1 = false ∧ s.env.Supplies [rx1] e ∧
      memRead addr s = ((false, v), s.ran (s.framed (cutEvents addr s.par.opRead readDummy rx1)) e d q)) :=
  xfer16_spec addr s.par.opRead readDummy s h

/-- A write of one register (20_memory.md R37), whole. -/
theorem memWrite_spec (addr : Byte) (v : Word16) (s : State) (h : s.LineAgrees) :
    (∃ rx1 rx2 e d q, rx1.getLsbD 1 = true ∧ s.env.Supplies [rx1, rx2] e ∧
      memWrite addr v s = (true, s.ran (s.framed (longEvents addr s.par.opWrite v rx1 rx2)) e d q)) ∨
    (∃ rx1 e d q, rx1.getLsbD 1 = false ∧ s.env.Supplies [rx1] e ∧
      memWrite addr v s = (false, s.ran (s.framed (cutEvents addr s.par.opWrite v rx1)) e d q)) := by
  rcases xfer16_spec addr s.par.opWrite v s h with ⟨rx1, rx2, e, d, q, h1, h2, hx⟩ | ⟨rx1, w, e, d, q, h1, h2, hx⟩
  · exact Or.inl ⟨rx1, rx2, e, d, q, h1, h2, by simp only [memWrite, hx]; rfl⟩
  · exact Or.inr ⟨rx1, e, d, q, h1, h2, by simp only [memWrite, hx]; rfl⟩

/-- The two-result read of the wiper (42_wiper.md R106), whole. -/
theorem getWiper_spec (s : State) (h : s.LineAgrees) :
    (∃ rx1 rx2 e d q, rx1.getLsbD 1 = true ∧ s.env.Supplies [rx1, rx2] e ∧
      getWiper s = ((true, (decData rx1 rx2).setWidth 16),
        s.ran (s.framed (longEvents s.wiper s.par.opRead readDummy rx1 rx2)) e d q)) ∨
    (∃ rx1 v e d q, rx1.getLsbD 1 = false ∧ s.env.Supplies [rx1] e ∧
      getWiper s = ((false, v), s.ran (s.framed (cutEvents s.wiper s.par.opRead readDummy rx1)) e d q)) := by
  rcases memRead_spec s.wiper s h with ⟨rx1, rx2, e, d, q, h1, h2, hx⟩ | ⟨rx1, w, e, d, q, h1, h2, hx⟩
  · exact Or.inl ⟨rx1, rx2, e, d, q, h1, h2, by simp only [getWiper, hx, if_true]⟩
  · exact Or.inr ⟨rx1, Config.any16 d, e, d + 1, q, h1, h2,
      by simp only [getWiper, hx, Bool.false_eq_true, if_false, draw16, ran_drawn]; rfl⟩

/-- The read of one TCON flag (43_tcon_status.md R112), whole. -/
theorem getTcon_spec (mask : FlagMask) (s : State) (h : s.LineAgrees) :
    (∃ rx1 rx2 e d q, rx1.getLsbD 1 = true ∧ s.env.Supplies [rx1, rx2] e ∧
      getTcon mask s = ((true, flagOf (decData rx1 rx2) (unitMask s.sess.cfg.unit mask)),
        s.ran (s.framed (longEvents (busAddr s.par.addrTcon) s.par.opRead readDummy rx1 rx2)) e d q)) ∨
    (∃ rx1 v e d q, rx1.getLsbD 1 = false ∧ s.env.Supplies [rx1] e ∧
      getTcon mask s =
        ((false, v), s.ran (s.framed (cutEvents (busAddr s.par.addrTcon) s.par.opRead readDummy rx1)) e d q)) := by
  rcases memRead_spec (busAddr s.par.addrTcon) s h with
    ⟨rx1, rx2, e, d, q, h1, h2, hx⟩ | ⟨rx1, w, e, d, q, h1, h2, hx⟩
  · exact Or.inl ⟨rx1, rx2, e, d, q, h1, h2, by simp only [getTcon, hx, if_true]⟩
  · exact Or.inr ⟨rx1, Config.anyBool d, e, d + 1, q, h1, h2,
      by simp only [getTcon, hx, Bool.false_eq_true, if_false, drawBool, ran_drawn]; rfl⟩

/-- The read of the shutdown flag (43_tcon_status.md R126), whole. -/
theorem getShutdown_spec (s : State) (h : s.LineAgrees) :
    (∃ rx1 rx2 e d q, rx1.getLsbD 1 = true ∧ s.env.Supplies [rx1, rx2] e ∧
      getShutdown s = ((true, !flagOf (decData rx1 rx2) (unitMask s.sess.cfg.unit s.par.maskShdn)),
        s.ran (s.framed (longEvents (busAddr s.par.addrTcon) s.par.opRead readDummy rx1 rx2)) e d q)) ∨
    (∃ rx1 v e d q, rx1.getLsbD 1 = false ∧ s.env.Supplies [rx1] e ∧
      getShutdown s =
        ((false, v), s.ran (s.framed (cutEvents (busAddr s.par.addrTcon) s.par.opRead readDummy rx1)) e d q)) := by
  rcases getTcon_spec s.par.maskShdn s h with ⟨rx1, rx2, e, d, q, h1, h2, hx⟩ | ⟨rx1, w, e, d, q, h1, h2, hx⟩
  · exact Or.inl ⟨rx1, rx2, e, d, q, h1, h2, by simp only [getShutdown, hx, if_true]⟩
  · exact Or.inr ⟨rx1, Config.anyBool d, e, d + 1, q, h1, h2,
      by simp only [getShutdown, hx, Bool.false_eq_true, if_false, drawBool, ran_drawn]; rfl⟩

/-- The read of the hardware shutdown flag (43_tcon_status.md R128), whole. -/
theorem getHwShutdown_spec (s : State) (h : s.LineAgrees) :
    (∃ rx1 rx2 e d q, rx1.getLsbD 1 = true ∧ s.env.Supplies [rx1, rx2] e ∧
      getHwShutdown s = ((true, flagOf (decData rx1 rx2) s.par.maskStatusShdn),
        s.ran (s.framed (longEvents (busAddr s.par.addrStatus) s.par.opRead readDummy rx1 rx2)) e d q)) ∨
    (∃ rx1 v e d q, rx1.getLsbD 1 = false ∧ s.env.Supplies [rx1] e ∧
      getHwShutdown s =
        ((false, v), s.ran (s.framed (cutEvents (busAddr s.par.addrStatus) s.par.opRead readDummy rx1)) e d q)) := by
  rcases memRead_spec (busAddr s.par.addrStatus) s h with
    ⟨rx1, rx2, e, d, q, h1, h2, hx⟩ | ⟨rx1, w, e, d, q, h1, h2, hx⟩
  · exact Or.inl ⟨rx1, rx2, e, d, q, h1, h2, by simp only [getHwShutdown, hx, if_true]⟩
  · exact Or.inr ⟨rx1, Config.anyBool d, e, d + 1, q, h1, h2,
      by simp only [getHwShutdown, hx, Bool.false_eq_true, if_false, drawBool, ran_drawn]; rfl⟩

/-- A convenience form that succeeded (43_tcon_status.md R121). -/
theorem convenience_ok (f : Bool) (s : State) : convenience ((true, f), s) = (f, s) := rfl

/-- A convenience form that failed returns some flag. -/
theorem convenience_failed (f : Bool) (s : State) : ∃ v, convenience ((false, f), s) = (v, s.drawn) :=
  ⟨Config.anyBool s.draws, rfl⟩

/-! ### What a body emits -/

/-- Every body but those of `SELECT` and `DESELECT` is a run (41_select_transfer.md R94): the session and the lines are
as it found them. -/
theorem body_ran (i : Instr) (s : State) (h : s.LineAgrees) (hs : i ≠ .select) (hd : i ≠ .deselect) :
    ∃ evs e d q r, bodyOf i s = (r, s.ran evs e d q) := by
  have hset : ∀ mask value, ∃ evs e d q b, setTcon mask value s = (b, s.ran evs e d q) := by
    intro mask value
    rcases setTcon_spec mask value s h with ⟨_, e, d, q, _, _, hx⟩ | ⟨_, _, _, e, d, q, _, _, _, hx⟩ |
      ⟨_, _, _, _, e, d, q, _, _, _, hx⟩ <;> exact ⟨_, e, d, q, _, hx⟩
  have hget : ∀ mask, ∃ evs e d q g, getTcon mask s = (g, s.ran evs e d q) := by
    intro mask
    rcases getTcon_spec mask s h with ⟨_, _, e, d, q, _, _, hx⟩ | ⟨_, _, e, d, q, _, _, hx⟩ <;>
      exact ⟨_, e, d, q, _, hx⟩
  have hshdn : ∃ evs e d q g, getShutdown s = (g, s.ran evs e d q) := by
    rcases getShutdown_spec s h with ⟨_, _, e, d, q, _, _, hx⟩ | ⟨_, _, e, d, q, _, _, hx⟩ <;>
      exact ⟨_, e, d, q, _, hx⟩
  have hconv : ∀ g : (Bool × Bool) × State, (∃ evs e d q b, g = (b, s.ran evs e d q)) →
      ∃ evs e d q b, convenience g = (b, s.ran evs e d q) := by
    rintro g ⟨evs, e, d, q, b, rfl⟩
    unfold convenience
    split
    · exact ⟨evs, e, d, q, _, rfl⟩
    · exact ⟨evs, e, d + 1, q, _, rfl⟩
  have hwiper : ∃ evs e d q g, getWiper s = (g, s.ran evs e d q) := by
    rcases getWiper_spec s h with ⟨_, _, e, d, q, _, _, hx⟩ | ⟨_, _, e, d, q, _, _, hx⟩ <;>
      exact ⟨_, e, d, q, _, hx⟩
  have hwrite : ∀ a v, ∃ evs e d q b, memWrite a v s = (b, s.ran evs e d q) := by
    intro a v
    rcases memWrite_spec a v s h with ⟨_, _, e, d, q, _, _, hx⟩ | ⟨_, e, d, q, _, _, hx⟩ <;>
      exact ⟨_, e, d, q, _, hx⟩
  have hshort : ∀ a op, ∃ evs e d q b, xfer8 a op s = (b, s.ran evs e d q) := by
    intro a op
    obtain ⟨_, e, d, q, _, hx⟩ := xfer8_spec a op s h
    exact ⟨_, e, d, q, _, hx⟩
  cases i with
  | select => exact absurd rfl hs
  | deselect => exact absurd rfl hd
  | maxval => exact ⟨[], s.env, s.draws, s.seq, .value s.sess.maxValue, by cases s; simp [bodyOf, State.ran]⟩
  | cmdWrite addr data =>
    obtain ⟨evs, e, d, q, b, hx⟩ := hwrite addr data
    exact ⟨evs, e, d, q, _, by rw [bodyOf, hx]⟩
  | set value =>
    obtain ⟨evs, e, d, q, b, hx⟩ := hwrite s.wiper (((clampValue value s.sess.maxValue).setWidth 9).setWidth 16)
    exact ⟨evs, e, d, q, _, by rw [bodyOf, setWiper, hx]⟩
  | cmdRead addr =>
    rcases memRead_spec addr s h with ⟨_, _, e, d, q, _, _, hx⟩ | ⟨_, _, e, d, q, _, _, hx⟩ <;>
      exact ⟨_, e, d, q, _, by rw [bodyOf, hx]⟩
  | cmdIncr addr =>
    obtain ⟨evs, e, d, q, b, hx⟩ := hshort addr s.par.opInc
    exact ⟨evs, e, d, q, _, by rw [bodyOf, hx]⟩
  | cmdDecr addr =>
    obtain ⟨evs, e, d, q, b, hx⟩ := hshort addr s.par.opDec
    exact ⟨evs, e, d, q, _, by rw [bodyOf, hx]⟩
  | incr =>
    obtain ⟨evs, e, d, q, b, hx⟩ := hshort s.wiper s.par.opInc
    exact ⟨evs, e, d, q, _, by rw [bodyOf, hx]⟩
  | decr =>
    obtain ⟨evs, e, d, q, b, hx⟩ := hshort s.wiper s.par.opDec
    exact ⟨evs, e, d, q, _, by rw [bodyOf, hx]⟩
  | get =>
    obtain ⟨evs, e, d, q, b, hx⟩ := hwiper
    exact ⟨evs, e, d, q, _, by rw [bodyOf, hx]⟩
  | getv =>
    obtain ⟨evs, e, d, q, b, hx⟩ := hwiper
    exact ⟨evs, e, d, q, _, by rw [bodyOf, hx]⟩
  | setta flag =>
    obtain ⟨evs, e, d, q, b, hx⟩ := hset s.par.maskTermA flag
    exact ⟨evs, e, d, q, _, by rw [bodyOf, hx]⟩
  | settb flag =>
    obtain ⟨evs, e, d, q, b, hx⟩ := hset s.par.maskTermB flag
    exact ⟨evs, e, d, q, _, by rw [bodyOf, hx]⟩
  | setw flag =>
    obtain ⟨evs, e, d, q, b, hx⟩ := hset s.par.maskWiper flag
    exact ⟨evs, e, d, q, _, by rw [bodyOf, hx]⟩
  | setshdn shutdown =>
    obtain ⟨evs, e, d, q, b, hx⟩ := hset s.par.maskShdn (!shutdown)
    exact ⟨evs, e, d, q, _, by rw [bodyOf, hx]⟩
  | getta =>
    obtain ⟨evs, e, d, q, b, hx⟩ := hget s.par.maskTermA
    exact ⟨evs, e, d, q, _, by rw [bodyOf, hx]⟩
  | gettb =>
    obtain ⟨evs, e, d, q, b, hx⟩ := hget s.par.maskTermB
    exact ⟨evs, e, d, q, _, by rw [bodyOf, hx]⟩
  | getw =>
    obtain ⟨evs, e, d, q, b, hx⟩ := hget s.par.maskWiper
    exact ⟨evs, e, d, q, _, by rw [bodyOf, hx]⟩
  | gettav =>
    obtain ⟨evs, e, d, q, b, hx⟩ := hconv _ (hget s.par.maskTermA)
    exact ⟨evs, e, d, q, _, by rw [bodyOf, hx]⟩
  | gettbv =>
    obtain ⟨evs, e, d, q, b, hx⟩ := hconv _ (hget s.par.maskTermB)
    exact ⟨evs, e, d, q, _, by rw [bodyOf, hx]⟩
  | getwv =>
    obtain ⟨evs, e, d, q, b, hx⟩ := hconv _ (hget s.par.maskWiper)
    exact ⟨evs, e, d, q, _, by rw [bodyOf, hx]⟩
  | getshdn =>
    obtain ⟨evs, e, d, q, b, hx⟩ := hshdn
    exact ⟨evs, e, d, q, _, by rw [bodyOf, hx]⟩
  | getshdnv =>
    obtain ⟨evs, e, d, q, b, hx⟩ := hconv _ hshdn
    exact ⟨evs, e, d, q, _, by rw [bodyOf, hx]⟩
  | gethwshdn =>
    rcases getHwShutdown_spec s h with ⟨_, _, e, d, q, _, _, hx⟩ | ⟨_, _, e, d, q, _, _, hx⟩ <;>
      exact ⟨_, e, d, q, _, by rw [bodyOf, hx]⟩

end Sys2Proof.Machine
end

