-- ==== Sys2Proof/Laws/Events.lean ====
section
/-! SUPPORT. What an operation puts on the bus: which exchanges, how many, which commands, and that they stand between
the events of one critical section. -/

namespace Sys2Proof.Machine

/-! ### Lists of events -/

/-- A list of byte exchanges and of nothing else. -/
def AllXfer (xs : List Event) : Prop := ∀ e ∈ xs, ∃ tx rx, e = .xfer tx rx

theorem allXfer_cons (tx rx : Byte) {xs : List Event} (h : AllXfer xs) : AllXfer (.xfer tx rx :: xs) := by
  intro e he
  rcases List.mem_cons.1 he with rfl | he
  · exact ⟨tx, rx, rfl⟩
  · exact h e he

theorem allXfer_nil : AllXfer [] := by simp [AllXfer]

/-- All of a list of exchanges are exchanges. -/
theorem exchanges_allXfer : ∀ {xs : List Event}, AllXfer xs → exchanges xs = xs.length
  | [], _ => rfl
  | e :: xs, h => by
    obtain ⟨tx, rx, rfl⟩ := h e (List.mem_cons_self ..)
    rw [exchanges, exchanges_allXfer fun x hx => h x (List.mem_cons_of_mem _ hx), List.length_cons]

theorem exchanges_append : ∀ xs ys : List Event, exchanges (xs ++ ys) = exchanges xs + exchanges ys
  | [], ys => by simp [exchanges]
  | .xfer _ _ :: xs, ys => by simp only [List.cons_append, exchanges, exchanges_append xs ys]; omega
  | .busMode _ :: xs, ys => exchanges_append xs ys
  | .assertLine _ :: xs, ys => exchanges_append xs ys
  | .deassertLine _ :: xs, ys => exchanges_append xs ys

/-- A framed list has the exchanges of the list. -/
theorem exchanges_framed (s : State) (xs : List Event) : exchanges (s.framed xs) = exchanges xs := by
  unfold State.framed
  split
  · simp [exchanges_append, exchanges]
  · rfl

/-- A framed list has at most three events more than the list. -/
theorem length_framed (s : State) (xs : List Event) : (s.framed xs).length ≤ xs.length + 3 := by
  unfold State.framed
  split <;> simp

/-- A `Deassert` at the end is no command. -/
theorem commandsOf_deassert (P : Params) (id : SelectId) :
    ∀ (b : Bool) (xs : List Event), commandsOf P b (xs ++ [.deassertLine id]) = commandsOf P b xs
  | b, [] => by cases b <;> rfl
  | true, .xfer _ _ :: xs => commandsOf_deassert P id false xs
  | false, .xfer tx rx :: xs => by
    simp only [List.cons_append, commandsOf, commandsOf_deassert P id _ xs]
  | b, .busMode _ :: xs => by cases b <;> exact commandsOf_deassert P id _ xs
  | b, .assertLine _ :: xs => by cases b <;> exact commandsOf_deassert P id _ xs
  | b, .deassertLine _ :: xs => by cases b <;> exact commandsOf_deassert P id _ xs

/-- A framed list holds the commands of the list. -/
theorem commandsOf_framed (s : State) (xs : List Event) :
    commandsOf s.par false (s.framed xs) = commandsOf s.par false xs := by
  unfold State.framed
  split
  · simp only [List.cons_append, List.nil_append, commandsOf]
    exact commandsOf_deassert _ _ _ _
  · rfl

/-! ### The exchanges of an operation -/

/-- The exchanges of one short transfer, one long transfer, or one TCON update. -/
inductive Sent (P : Params) : List (RegAddr × OpBits) → List Event → Prop where
  | short (a : Byte) (op : OpBits) (rx : Byte) :
      Sent P [(a.extractLsb' 0 4, op)] [.xfer (enc8 a (op.setWidth 8)) rx]
  | cut (a : Byte) (op : OpBits) (d : Word16) (rx1 : Byte) (h : rx1.getLsbD 1 = false) :
      Sent P [(a.extractLsb' 0 4, op)] (cutEvents a op d rx1)
  | long (a : Byte) (op : OpBits) (d : Word16) (rx1 rx2 : Byte) (ho : op = P.opWrite ∨ op = P.opRead)
      (h : rx1.getLsbD 1 = true) : Sent P [(a.extractLsb' 0 4, op)] (longEvents a op d rx1 rx2)
  | updateCut (a : Byte) (d1 d2 : Word16) (rx1 rx2 rx3 : Byte) (h : rx1.getLsbD 1 = true)
      (h' : rx3.getLsbD 1 = false) :
      Sent P [(a.extractLsb' 0 4, P.opRead), (a.extractLsb' 0 4, P.opWrite)]
        (longEvents a P.opRead d1 rx1 rx2 ++ cutEvents a P.opWrite d2 rx3)
  | update (a : Byte) (d1 d2 : Word16) (rx1 rx2 rx3 rx4 : Byte) (h : rx1.getLsbD 1 = true)
      (h' : rx3.getLsbD 1 = true) :
      Sent P [(a.extractLsb' 0 4, P.opRead), (a.extractLsb' 0 4, P.opWrite)]
        (longEvents a P.opRead d1 rx1 rx2 ++ longEvents a P.opWrite d2 rx3 rx4)

variable {P : Params} {pairs : List (RegAddr × OpBits)} {xs : List Event}

theorem Sent.allXfer (h : Sent P pairs xs) : AllXfer xs := by
  cases h with
  | short => exact allXfer_cons _ _ allXfer_nil
  | cut => exact allXfer_cons _ _ allXfer_nil
  | long => exact allXfer_cons _ _ (allXfer_cons _ _ allXfer_nil)
  | updateCut => exact allXfer_cons _ _ (allXfer_cons _ _ (allXfer_cons _ _ allXfer_nil))
  | update => exact allXfer_cons _ _ (allXfer_cons _ _ (allXfer_cons _ _ (allXfer_cons _ _ allXfer_nil)))

theorem Sent.length_le (h : Sent P pairs xs) : xs.length ≤ 4 := by
  cases h <;> simp [longEvents, cutEvents]

theorem Sent.ne_nil (h : Sent P pairs xs) : xs ≠ [] := by
  cases h <;> simp [longEvents, cutEvents]

/-- The pair of a short command's byte. -/
theorem pair_enc8 (a : Byte) (op : OpBits) :
    (addrField (enc8 a (op.setWidth 8)), opField (enc8 a (op.setWidth 8))) = (a.extractLsb' 0 4, op) := by
  simp only [addrField, opField, enc8_addr, enc8_op, op_extract]

/-- The operation of a long command's first byte. -/
theorem opField_first (a : Byte) (op : OpBits) (d : Word16) :
    opField (firstByte (enc16 a (op.setWidth 8) d)) = op := by
  simp only [opField, firstByte_op, op_extract]

/-- The address of a long command's first byte. -/
theorem addrField_first (a op : Byte) (d : Word16) : addrField (firstByte (enc16 a op d)) = a.extractLsb' 0 4 :=
  firstByte_addr a op d

/-- The commands of the exchanges are the pairs. -/
theorem Sent.commands (h : Sent P pairs xs) : commandsOf P false xs = pairs := by
  cases h with
  | short a op rx => simp only [commandsOf, pair_enc8]
  | cut a op d rx1 h => simp only [cutEvents, commandsOf, addrField_first, opField_first]
  | long a op d rx1 rx2 ho h =>
    have : (op == P.opWrite || op == P.opRead) = true := by simpa using ho
    simp only [longEvents, commandsOf, addrField_first, opField_first, this, h, Bool.and_self]
  | updateCut a d1 d2 rx1 rx2 rx3 h h' =>
    simp only [longEvents, cutEvents, List.cons_append, List.nil_append, commandsOf, addrField_first, opField_first, h,
      BEq.rfl, Bool.or_true, Bool.and_self]
  | update a d1 d2 rx1 rx2 rx3 rx4 h h' =>
    simp only [longEvents, List.cons_append, List.nil_append, commandsOf, addrField_first, opField_first, h, h',
      BEq.rfl, Bool.or_true, Bool.true_or, Bool.and_self]

/-- What a body that goes to the bus did: one critical section around exchanges that were `Sent`. -/
def Ran (s : State) (out : Response × State) (pairs : List (RegAddr × OpBits)) : Prop :=
  ∃ xs e d q, Sent s.par pairs xs ∧ out.2 = s.ran (s.framed xs) e d q

/-- A body's commands are among these: what R66 gives each host operation, a wire command's own. -/
def pairsOf (s : State) : Instr → List (RegAddr × OpBits) → Prop
  | .cmdWrite addr _, ps => ps = [(addr.extractLsb' 0 4, s.par.opWrite)]
  | .cmdRead addr, ps => ps = [(addr.extractLsb' 0 4, s.par.opRead)]
  | .cmdIncr addr, ps => ps = [(addr.extractLsb' 0 4, s.par.opInc)]
  | .cmdDecr addr, ps => ps = [(addr.extractLsb' 0 4, s.par.opDec)]
  | .maxval, _ => False
  | .incr, ps => ps = [(wiperAddr s.par s.sess.cfg.unit, s.par.opInc)]
  | .decr, ps => ps = [(wiperAddr s.par s.sess.cfg.unit, s.par.opDec)]
  | .set _, ps => ps = [(wiperAddr s.par s.sess.cfg.unit, s.par.opWrite)]
  | .get, ps => ps = [(wiperAddr s.par s.sess.cfg.unit, s.par.opRead)]
  | .getv, ps => ps = [(wiperAddr s.par s.sess.cfg.unit, s.par.opRead)]
  | .setta _, ps => ps <+: [(s.par.addrTcon, s.par.opRead), (s.par.addrTcon, s.par.opWrite)]
  | .settb _, ps => ps <+: [(s.par.addrTcon, s.par.opRead), (s.par.addrTcon, s.par.opWrite)]
  | .setw _, ps => ps <+: [(s.par.addrTcon, s.par.opRead), (s.par.addrTcon, s.par.opWrite)]
  | .setshdn _, ps => ps <+: [(s.par.addrTcon, s.par.opRead), (s.par.addrTcon, s.par.opWrite)]
  | .getta, ps => ps = [(s.par.addrTcon, s.par.opRead)]
  | .gettav, ps => ps = [(s.par.addrTcon, s.par.opRead)]
  | .gettb, ps => ps = [(s.par.addrTcon, s.par.opRead)]
  | .gettbv, ps => ps = [(s.par.addrTcon, s.par.opRead)]
  | .getw, ps => ps = [(s.par.addrTcon, s.par.opRead)]
  | .getwv, ps => ps = [(s.par.addrTcon, s.par.opRead)]
  | .getshdn, ps => ps = [(s.par.addrTcon, s.par.opRead)]
  | .getshdnv, ps => ps = [(s.par.addrTcon, s.par.opRead)]
  | .gethwshdn, ps => ps = [(s.par.addrStatus, s.par.opRead)]
  | .select, _ => False
  | .deselect, _ => False

/-- Every body but those of `MAXVAL`, `SELECT` and `DESELECT` is one critical section around the exchanges of its own
commands. -/
theorem body_sent (i : Instr) (s : State) (h : s.LineAgrees) (hm : i ≠ .maxval) (hs : i ≠ .select)
    (hd : i ≠ .deselect) : ∃ pairs, pairsOf s i pairs ∧ Ran s (bodyOf i s) pairs := by
  have hread : ∀ a g, (∃ x : Bool × Data9, g = (x, (memRead a s).2)) →
      ∃ xs e d q, Sent s.par [(a.extractLsb' 0 4, s.par.opRead)] xs ∧ g.2 = s.ran (s.framed xs) e d q := by
    rintro a _ ⟨x, rfl⟩
    rcases memRead_spec a s h with ⟨rx1, rx2, e, d, q, hv, _, hx⟩ | ⟨rx1, _, e, d, q, hv, _, hx⟩ <;> rw [hx]
    · exact ⟨_, e, d, q, .long a _ _ rx1 rx2 (Or.inr rfl) hv, rfl⟩
    · exact ⟨_, e, d, q, .cut a _ _ rx1 hv, rfl⟩
  have hwrite : ∀ a v, ∃ xs e d q, Sent s.par [(a.extractLsb' 0 4, s.par.opWrite)] xs ∧
      (memWrite a v s).2 = s.ran (s.framed xs) e d q := by
    intro a v
    rcases memWrite_spec a v s h with ⟨rx1, rx2, e, d, q, hv, _, hx⟩ | ⟨rx1, e, d, q, hv, _, hx⟩ <;> rw [hx]
    · exact ⟨_, e, d, q, .long a _ _ rx1 rx2 (Or.inl rfl) hv, rfl⟩
    · exact ⟨_, e, d, q, .cut a _ _ rx1 hv, rfl⟩
  have hshort : ∀ a op, ∃ xs e d q, Sent s.par [(a.extractLsb' 0 4, op)] xs ∧
      (xfer8 a op s).2 = s.ran (s.framed xs) e d q := by
    intro a op
    obtain ⟨rx, e, d, q, _, hx⟩ := xfer8_spec a op s h
    rw [hx]
    exact ⟨_, e, d, q, .short a op rx, rfl⟩
  have hwiper : ∃ xs e d q, Sent s.par [(s.wiper.extractLsb' 0 4, s.par.opRead)] xs ∧
      (getWiper s).2 = s.ran (s.framed xs) e d q := by
    rcases getWiper_spec s h with ⟨rx1, rx2, e, d, q, hv, _, hx⟩ | ⟨rx1, _, e, d, q, hv, _, hx⟩ <;> rw [hx]
    · exact ⟨_, e, d, q, .long s.wiper _ _ rx1 rx2 (Or.inr rfl) hv, rfl⟩
    · exact ⟨_, e, d, q, .cut s.wiper _ _ rx1 hv, rfl⟩
  have htcon : ∀ m, ∃ xs e d q, Sent s.par [((busAddr s.par.addrTcon).extractLsb' 0 4, s.par.opRead)] xs ∧
      (getTcon m s).2 = s.ran (s.framed xs) e d q := by
    intro m
    rcases getTcon_spec m s h with ⟨rx1, rx2, e, d, q, hv, _, hx⟩ | ⟨rx1, _, e, d, q, hv, _, hx⟩ <;> rw [hx]
    · exact ⟨_, e, d, q, .long _ _ _ rx1 rx2 (Or.inr rfl) hv, rfl⟩
    · exact ⟨_, e, d, q, .cut _ _ _ rx1 hv, rfl⟩
  have hshdn : ∃ xs e d q, Sent s.par [((busAddr s.par.addrTcon).extractLsb' 0 4, s.par.opRead)] xs ∧
      (getShutdown s).2 = s.ran (s.framed xs) e d q := by
    rcases getShutdown_spec s h with ⟨rx1, rx2, e, d, q, hv, _, hx⟩ | ⟨rx1, _, e, d, q, hv, _, hx⟩ <;> rw [hx]
    · exact ⟨_, e, d, q, .long _ _ _ rx1 rx2 (Or.inr rfl) hv, rfl⟩
    · exact ⟨_, e, d, q, .cut _ _ _ rx1 hv, rfl⟩
  have hconv : ∀ (g : (Bool × Bool) × State) ps,
      (∃ xs e d q, Sent s.par ps xs ∧ g.2 = s.ran (s.framed xs) e d q) →
      ∃ xs e d q, Sent s.par ps xs ∧ (convenience g).2 = s.ran (s.framed xs) e d q := by
    rintro ⟨b, g⟩ ps ⟨xs, e, d, q, hx, hg⟩
    simp only at hg
    subst hg
    unfold convenience
    split
    · exact ⟨xs, e, d, q, hx, rfl⟩
    · exact ⟨xs, e, d + 1, q, hx, rfl⟩
  have hset : ∀ m v, ∃ ps, ps <+: [(s.par.addrTcon, s.par.opRead), (s.par.addrTcon, s.par.opWrite)] ∧
      ∃ xs e d q, Sent s.par ps xs ∧ (setTcon m v s).2 = s.ran (s.framed xs) e d q := by
    intro m v
    rcases setTcon_spec m v s h with ⟨rx1, e, d, q, h1, _, hx⟩ | ⟨rx1, rx2, rx3, e, d, q, h1, h3, _, hx⟩ |
      ⟨rx1, rx2, rx3, rx4, e, d, q, h1, h3, _, hx⟩ <;> rw [hx]
    · refine ⟨_, ?_, _, e, d, q, .cut (busAddr s.par.addrTcon) s.par.opRead readDummy rx1 h1, rfl⟩
      rw [busAddr, addr_extract]
      exact ⟨[_], rfl⟩
    · refine ⟨_, ?_, _, e, d, q, .updateCut (busAddr s.par.addrTcon) readDummy _ rx1 rx2 rx3 h1 h3, rfl⟩
      rw [busAddr, addr_extract]
    · refine ⟨_, ?_, _, e, d, q, .update (busAddr s.par.addrTcon) readDummy _ rx1 rx2 rx3 rx4 h1 h3, rfl⟩
      rw [busAddr, addr_extract]
  rw [busAddr, addr_extract] at hshdn
  simp only [busAddr, addr_extract] at htcon
  have hw : s.wiper.extractLsb' 0 4 = wiperAddr s.par s.sess.cfg.unit := addr_extract _
  rw [hw] at hwiper
  cases i with
  | maxval => exact absurd rfl hm
  | select => exact absurd rfl hs
  | deselect => exact absurd rfl hd
  | cmdWrite addr data => exact ⟨_, rfl, hwrite addr data⟩
  | cmdRead addr => exact ⟨_, rfl, hread addr ((false, 0), (memRead addr s).2) ⟨_, rfl⟩⟩
  | cmdIncr addr => exact ⟨_, rfl, hshort addr s.par.opInc⟩
  | cmdDecr addr => exact ⟨_, rfl, hshort addr s.par.opDec⟩
  | incr => exact ⟨_, rfl, hw ▸ hshort s.wiper s.par.opInc⟩
  | decr => exact ⟨_, rfl, hw ▸ hshort s.wiper s.par.opDec⟩
  | set value => exact ⟨_, rfl, hw ▸ hwrite s.wiper _⟩
  | get => exact ⟨_, rfl, hwiper⟩
  | getv => exact ⟨_, rfl, hwiper⟩
  | setta flag => exact hset s.par.maskTermA flag
  | settb flag => exact hset s.par.maskTermB flag
  | setw flag => exact hset s.par.maskWiper flag
  | setshdn shutdown => exact hset s.par.maskShdn (!shutdown)
  | getta => exact ⟨_, rfl, htcon s.par.maskTermA⟩
  | gettb => exact ⟨_, rfl, htcon s.par.maskTermB⟩
  | getw => exact ⟨_, rfl, htcon s.par.maskWiper⟩
  | gettav => exact ⟨_, rfl, hconv _ _ (htcon s.par.maskTermA)⟩
  | gettbv => exact ⟨_, rfl, hconv _ _ (htcon s.par.maskTermB)⟩
  | getwv => exact ⟨_, rfl, hconv _ _ (htcon s.par.maskWiper)⟩
  | getshdn => exact ⟨_, rfl, hshdn⟩
  | getshdnv => exact ⟨_, rfl, hconv _ _ hshdn⟩
  | gethwshdn =>
    refine ⟨_, rfl, ?_⟩
    rcases getHwShutdown_spec s h with ⟨rx1, rx2, e, d, q, hv, _, hx⟩ | ⟨rx1, _, e, d, q, hv, _, hx⟩
    · have hsent := Sent.long (P := s.par) (busAddr s.par.addrStatus) _ readDummy rx1 rx2 (Or.inr rfl) hv
      rw [busAddr, addr_extract] at hsent
      exact ⟨_, e, d, q, hsent, by rw [bodyOf, hx]; rfl⟩
    · have hsent := Sent.cut (P := s.par) (busAddr s.par.addrStatus) s.par.opRead readDummy rx1 hv
      rw [busAddr, addr_extract] at hsent
      exact ⟨_, e, d, q, hsent, by rw [bodyOf, hx]; rfl⟩

end Sys2Proof.Machine
end

