-- ==== Sys2Proof/Laws/PerInstr.lean ====
section
/-! SUPPORT. What the host's case split over the instructions reads: for each constructor, the shape of its frame. -/

namespace Sys2Proof.Laws.FrameShape

open Sys2Proof.Machine

/-- A host operation is a request code of at most 20 (30_encoding.md R78); a wire command is one byte or two, the first
with its probe bit set (R61, R65). -/
def Statement (i : Instr) : Prop :=
  ∀ P : Params,
    (isHostOp i = true → ∃ code v g, encode P i = .host code v g ∧ code.toNat ≤ 20) ∧
    (isHostOp i = false → ∃ b rest, encode P i = .wire (b :: rest) ∧ rest.length ≤ 1 ∧ b.getLsbD 1 = true)

/-- A request's frame has its shape. -/
theorem of_host {i : Instr} (code : BitVec 5) (v : Word16) (g : Bool) (hi : isHostOp i = true)
    (hc : code.toNat ≤ 20) (he : ∀ P, encode P i = .host code v g) : Statement i :=
  fun P => ⟨fun _ => ⟨code, v, g, he P, hc⟩, fun h => by rw [hi] at h; cases h⟩

theorem cmdWrite (addr : Byte) (data : Word16) : Statement (.cmdWrite addr data) :=
  fun _ => ⟨fun h => (by cases h), fun _ => ⟨_, _, rfl, Nat.le_refl 1, firstByte_probe _ _ _⟩⟩

theorem cmdRead (addr : Byte) : Statement (.cmdRead addr) :=
  fun _ => ⟨fun h => (by cases h), fun _ => ⟨_, _, rfl, Nat.le_refl 1, firstByte_probe _ _ _⟩⟩

theorem cmdIncr (addr : Byte) : Statement (.cmdIncr addr) :=
  fun _ => ⟨fun h => (by cases h), fun _ => ⟨_, _, rfl, Nat.zero_le 1, enc8_probe _ _⟩⟩

theorem cmdDecr (addr : Byte) : Statement (.cmdDecr addr) :=
  fun _ => ⟨fun h => (by cases h), fun _ => ⟨_, _, rfl, Nat.zero_le 1, enc8_probe _ _⟩⟩

theorem maxval : Statement .maxval := of_host 0#5 0#16 false rfl (by decide) fun _ => rfl

theorem incr : Statement .incr := of_host 1#5 0#16 false rfl (by decide) fun _ => rfl

theorem decr : Statement .decr := of_host 2#5 0#16 false rfl (by decide) fun _ => rfl

theorem set (value : Word16) : Statement (.set value) :=
  of_host 3#5 value false rfl (by decide) fun _ => rfl

theorem get : Statement .get := of_host 4#5 0#16 false rfl (by decide) fun _ => rfl

theorem getv : Statement .getv := of_host 5#5 0#16 false rfl (by decide) fun _ => rfl

theorem setta (flag : Bool) : Statement (.setta flag) :=
  of_host 6#5 0#16 flag rfl (by decide) fun _ => rfl

theorem getta : Statement .getta := of_host 7#5 0#16 false rfl (by decide) fun _ => rfl

theorem gettav : Statement .gettav := of_host 8#5 0#16 false rfl (by decide) fun _ => rfl

theorem settb (flag : Bool) : Statement (.settb flag) :=
  of_host 9#5 0#16 flag rfl (by decide) fun _ => rfl

theorem gettb : Statement .gettb := of_host 10#5 0#16 false rfl (by decide) fun _ => rfl

theorem gettbv : Statement .gettbv := of_host 11#5 0#16 false rfl (by decide) fun _ => rfl

theorem setw (flag : Bool) : Statement (.setw flag) :=
  of_host 12#5 0#16 flag rfl (by decide) fun _ => rfl

theorem getw : Statement .getw := of_host 13#5 0#16 false rfl (by decide) fun _ => rfl

theorem getwv : Statement .getwv := of_host 14#5 0#16 false rfl (by decide) fun _ => rfl

theorem setshdn (shutdown : Bool) : Statement (.setshdn shutdown) :=
  of_host 15#5 0#16 shutdown rfl (by decide) fun _ => rfl

theorem getshdn : Statement .getshdn := of_host 16#5 0#16 false rfl (by decide) fun _ => rfl

theorem getshdnv : Statement .getshdnv := of_host 17#5 0#16 false rfl (by decide) fun _ => rfl

theorem gethwshdn : Statement .gethwshdn := of_host 18#5 0#16 false rfl (by decide) fun _ => rfl

theorem select : Statement .select := of_host 19#5 0#16 false rfl (by decide) fun _ => rfl

theorem deselect : Statement .deselect := of_host 20#5 0#16 false rfl (by decide) fun _ => rfl

end Sys2Proof.Laws.FrameShape
end

