-- ==== Sys2Proof/Laws/Step.lean ====
section
/-! SUPPORT. What a step can do: nothing, where no request waits, or one decoded request whole; and how a request finds
its session. -/

namespace Sys2Proof.Machine

/-- A session found among the parked ones is one of them, and is exchanged for the current one. -/
theorem exchangeSession_spec (t : Nat) (mine : Nat × Session) :
    ∀ (ps : List (Nat × Session)) (x : Session) (ps' : List (Nat × Session)),
      exchangeSession t mine ps = some (x, ps') → (t, x) ∈ ps ∧ ((t, x) :: ps').Perm (mine :: ps)
  | [], _, _, h => by simp [exchangeSession] at h
  | p :: ps, x, ps', h => by
    unfold exchangeSession at h
    split at h
    · rename_i hp
      simp only [Option.some.injEq, Prod.mk.injEq] at h
      obtain ⟨rfl, rfl⟩ := h
      subst hp
      exact ⟨List.mem_cons_self .., List.Perm.swap mine p ps⟩
    · simp only [Option.map_eq_some_iff, Prod.mk.injEq, Prod.exists] at h
      obtain ⟨y, ps2, h2, rfl, rfl⟩ := h
      obtain ⟨h3, h4⟩ := exchangeSession_spec t mine ps _ _ h2
      exact ⟨List.mem_cons_of_mem _ h3,
        ((List.Perm.swap p (t, y) ps2).trans (h4.cons p)).trans (List.Perm.swap mine p ps)⟩

/-- A step that answers a next state waited, or ran one request. -/
theorem step_cases {s t : State} (h : step s = .next t) :
    (s.pending = [] ∧ t = s) ∨
    ∃ q rest s1 i, s.pending = q :: rest ∧ s.address q.session = some s1 ∧ decode s.par q.frame = .ok i ∧
      exec i { s1 with pending := rest } = .next t := by
  unfold step fetch at h
  split at h
  · rename_i hf
    split at hf
    · left
      simp only [Host.Outcome.next.injEq] at h
      exact ⟨‹_›, h.symm⟩
    · split at hf
      · cases hf
      · split at hf <;> cases hf
  · rename_i i s1 hf
    split at hf
    · cases hf
    · rename_i q rest hp
      split at hf
      · cases hf
      · rename_i s2 ha
        split at hf
        · rename_i hd
          cases hf
          exact Or.inr ⟨q, rest, s2, _, hp, ha, hd, h⟩
        · cases hf
  · cases h

end Sys2Proof.Machine
end

