-- ==== Sys2Proof/Laws/Unread.lean ====
section
/-! SUPPORT. What no operation reads. Two states are compared by a relation that the shared operations keep; every body
then returns the same to the host from both and leaves related states. One proof serves every field that is never
read. -/

namespace Sys2Proof.Machine

/-- A relation the shared operations keep, between states that agree on what they read. -/
structure Alike (R : State → State → Prop) : Prop where
  par : ∀ {s t}, R s t → t.par = s.par
  unit : ∀ {s t}, R s t → t.sess.cfg.unit = s.sess.cfg.unit
  maxValue : ∀ {s t}, R s t → t.sess.maxValue = s.sess.maxValue
  draws : ∀ {s t}, R s t → t.draws = s.draws
  selectLine : ∀ {s t}, R s t → R (selectLine s) (selectLine t)
  deselectLine : ∀ {s t}, R s t → R (deselectLine s) (deselectLine t)
  reply : ∀ {s t} (tx : Byte), R s t → (transferByte tx t).1 = (transferByte tx s).1
  transferByte : ∀ {s t} (tx : Byte), R s t → R (transferByte tx s).2 (transferByte tx t).2
  drawn : ∀ {s t}, R s t → R s.drawn t.drawn

variable {R : State → State → Prop} {s t : State}

theorem Alike.xfer8 (hR : Alike R) (addr : Byte) (op : OpBits) (h : R s t) :
    (xfer8 addr op t).1 = (xfer8 addr op s).1 ∧ R (xfer8 addr op s).2 (xfer8 addr op t).2 := by
  have h1 := hR.selectLine h
  simp only [Machine.xfer8, failRelease, ite_self, hR.reply _ h1, true_and]
  exact hR.deselectLine (hR.transferByte _ h1)

theorem Alike.xfer16 (hR : Alike R) (addr : Byte) (op : OpBits) (data : Word16) (h : R s t) :
    (xfer16 addr op data t).1 = (xfer16 addr op data s).1 ∧
      R (xfer16 addr op data s).2 (xfer16 addr op data t).2 := by
  have h1 := hR.selectLine h
  have h2 := hR.transferByte (firstByte (enc16 addr (op.setWidth 8) data)) h1
  simp only [Machine.xfer16, hR.reply _ h1]
  split
  · rw [hR.reply _ h2]
    exact ⟨rfl, hR.deselectLine (hR.transferByte _ h2)⟩
  · have h3 := hR.deselectLine h2
    simp only [draw9, failRelease, hR.draws h3, true_and]
    exact hR.drawn h3

theorem Alike.memRead (hR : Alike R) (addr : Byte) (h : R s t) :
    (memRead addr t).1 = (memRead addr s).1 ∧ R (memRead addr s).2 (memRead addr t).2 := by
  simp only [Machine.memRead, hR.par h]
  exact hR.xfer16 addr _ _ h

theorem Alike.memWrite (hR : Alike R) (addr : Byte) (v : Word16) (h : R s t) :
    (memWrite addr v t).1 = (memWrite addr v s).1 ∧ R (memWrite addr v s).2 (memWrite addr v t).2 := by
  simp only [Machine.memWrite, hR.par h]
  exact (hR.xfer16 addr _ _ h).imp (congrArg Prod.fst) id

theorem Alike.wiper (hR : Alike R) (h : R s t) : t.wiper = s.wiper := by
  simp only [State.wiper, hR.par h, hR.unit h]

theorem Alike.getWiper (hR : Alike R) (h : R s t) :
    (getWiper t).1 = (getWiper s).1 ∧ R (getWiper s).2 (getWiper t).2 := by
  obtain ⟨h1, h2⟩ := hR.memRead s.wiper h
  simp only [Machine.getWiper, hR.wiper h, h1]
  split
  · exact ⟨rfl, h2⟩
  · simp only [draw16, hR.draws h2, true_and]
    exact hR.drawn h2

theorem Alike.getTcon (hR : Alike R) (mask : FlagMask) (h : R s t) :
    (getTcon mask t).1 = (getTcon mask s).1 ∧ R (getTcon mask s).2 (getTcon mask t).2 := by
  obtain ⟨h1, h2⟩ := hR.memRead (busAddr s.par.addrTcon) h
  simp only [Machine.getTcon, hR.par h, hR.unit h, h1]
  split
  · exact ⟨rfl, h2⟩
  · simp only [drawBool, hR.draws h2, true_and]
    exact hR.drawn h2

theorem Alike.getHwShutdown (hR : Alike R) (h : R s t) :
    (getHwShutdown t).1 = (getHwShutdown s).1 ∧ R (getHwShutdown s).2 (getHwShutdown t).2 := by
  obtain ⟨h1, h2⟩ := hR.memRead (busAddr s.par.addrStatus) h
  simp only [Machine.getHwShutdown, hR.par h, h1]
  split
  · exact ⟨rfl, h2⟩
  · simp only [drawBool, hR.draws h2, true_and]
    exact hR.drawn h2

theorem Alike.getShutdown (hR : Alike R) (h : R s t) :
    (getShutdown t).1 = (getShutdown s).1 ∧ R (getShutdown s).2 (getShutdown t).2 := by
  obtain ⟨h1, h2⟩ := hR.getTcon s.par.maskShdn h
  simp only [Machine.getShutdown, hR.par h, h1]
  split
  · exact ⟨rfl, h2⟩
  · simp only [drawBool, hR.draws h2, true_and]
    exact hR.drawn h2

theorem Alike.convenience (hR : Alike R) {g k : (Bool × Bool) × State} (h1 : k.1 = g.1) (h2 : R g.2 k.2) :
    (convenience k).1 = (convenience g).1 ∧ R (convenience g).2 (convenience k).2 := by
  simp only [Machine.convenience, h1]
  split
  · exact ⟨rfl, h2⟩
  · simp only [drawBool, hR.draws h2, true_and]
    exact hR.drawn h2

theorem Alike.setTcon (hR : Alike R) (mask : FlagMask) (value : Bool) (h : R s t) :
    (setTcon mask value t).1 = (setTcon mask value s).1 ∧ R (setTcon mask value s).2 (setTcon mask value t).2 := by
  have h0 := hR.selectLine h
  obtain ⟨h1, h2⟩ := hR.memRead (busAddr (Machine.selectLine s).par.addrTcon) h0
  simp only [Machine.setTcon, hR.par h0, hR.unit h0, h1]
  split
  · obtain ⟨h3, h4⟩ := hR.memWrite (busAddr (Machine.selectLine s).par.addrTcon)
      ((tconNew (Machine.memRead (busAddr (Machine.selectLine s).par.addrTcon) (Machine.selectLine s)).1.2
        (unitMask (Machine.selectLine s).sess.cfg.unit mask) value).setWidth 16) h2
    exact ⟨h3, hR.deselectLine h4⟩
  · exact ⟨rfl, hR.deselectLine h2⟩

/-- Every body returns the same from related states, and leaves related states. -/
theorem body_alike (hR : Alike R) (i : Instr) (h : R s t) :
    (bodyOf i t).1 = (bodyOf i s).1 ∧ R (bodyOf i s).2 (bodyOf i t).2 := by
  have hconv : ∀ m, (Machine.convenience (Machine.getTcon m t)).1 = (Machine.convenience (Machine.getTcon m s)).1 ∧
      R (Machine.convenience (Machine.getTcon m s)).2 (Machine.convenience (Machine.getTcon m t)).2 := fun m =>
    hR.convenience (hR.getTcon m h).1 (hR.getTcon m h).2
  cases i with
  | cmdWrite addr data => exact (hR.memWrite addr data h).imp (congrArg Response.ok) id
  | cmdRead addr => exact (hR.memRead addr h).imp (congrArg fun g : Bool × Data9 => Response.okData g.1 g.2) id
  | cmdIncr addr => simpa only [bodyOf, hR.par h] using (hR.xfer8 addr s.par.opInc h).imp (congrArg _) id
  | cmdDecr addr => simpa only [bodyOf, hR.par h] using (hR.xfer8 addr s.par.opDec h).imp (congrArg _) id
  | maxval => exact ⟨congrArg Response.value (hR.maxValue h), h⟩
  | incr =>
    simpa only [bodyOf, hR.par h, hR.wiper h] using (hR.xfer8 s.wiper s.par.opInc h).imp (congrArg _) id
  | decr =>
    simpa only [bodyOf, hR.par h, hR.wiper h] using (hR.xfer8 s.wiper s.par.opDec h).imp (congrArg _) id
  | set value =>
    simpa only [bodyOf, setWiper, hR.wiper h, hR.maxValue h] using
      (hR.memWrite s.wiper (((clampValue value s.sess.maxValue).setWidth 9).setWidth 16) h).imp
        (congrArg Response.ok) id
  | get => exact (hR.getWiper h).imp (congrArg fun g : Bool × Word16 => Response.okValue g.1 g.2) id
  | getv =>
    exact (hR.getWiper h).imp
      (congrArg fun g : Bool × Word16 => Response.value (if g.1 then g.2 else getSentinel)) id
  | setta flag => simpa only [bodyOf, hR.par h] using (hR.setTcon s.par.maskTermA flag h).imp (congrArg _) id
  | settb flag => simpa only [bodyOf, hR.par h] using (hR.setTcon s.par.maskTermB flag h).imp (congrArg _) id
  | setw flag => simpa only [bodyOf, hR.par h] using (hR.setTcon s.par.maskWiper flag h).imp (congrArg _) id
  | setshdn shutdown =>
    simpa only [bodyOf, hR.par h] using (hR.setTcon s.par.maskShdn (!shutdown) h).imp (congrArg _) id
  | getta =>
    simpa only [bodyOf, hR.par h] using
      (hR.getTcon s.par.maskTermA h).imp (congrArg fun g : Bool × Bool => Response.okFlag g.1 g.2) id
  | gettb =>
    simpa only [bodyOf, hR.par h] using
      (hR.getTcon s.par.maskTermB h).imp (congrArg fun g : Bool × Bool => Response.okFlag g.1 g.2) id
  | getw =>
    simpa only [bodyOf, hR.par h] using
      (hR.getTcon s.par.maskWiper h).imp (congrArg fun g : Bool × Bool => Response.okFlag g.1 g.2) id
  | gettav => simpa only [bodyOf, hR.par h] using (hconv s.par.maskTermA).imp (congrArg _) id
  | gettbv => simpa only [bodyOf, hR.par h] using (hconv s.par.maskTermB).imp (congrArg _) id
  | getwv => simpa only [bodyOf, hR.par h] using (hconv s.par.maskWiper).imp (congrArg _) id
  | getshdn => exact (hR.getShutdown h).imp (congrArg fun g : Bool × Bool => Response.okFlag g.1 g.2) id
  | getshdnv =>
    exact (hR.convenience (hR.getShutdown h).1 (hR.getShutdown h).2).imp (congrArg Response.flag) id
  | gethwshdn => exact (hR.getHwShutdown h).imp (congrArg fun g : Bool × Bool => Response.okFlag g.1 g.2) id
  | select => exact ⟨rfl, hR.selectLine h⟩
  | deselect => exact ⟨rfl, hR.deselectLine h⟩

/-- What an instruction does from related states that agree on the counter and on `seq`: the same, to related
states. -/
theorem exec_alike (hR : Alike R) (i : Instr) {s s' t : State} (hseq : s'.seq = s.seq) (hpar : s'.par = s.par)
    (hnest : s'.sess.nest = s.sess.nest) (h : R (s.start i) (s'.start i)) (hx : exec i s = .next t) :
    ∃ r u u', R u u' ∧ t = u.finish r ∧ exec i s' = .next (u'.finish r) := by
  obtain ⟨hq, hroom, rfl⟩ := exec_next hx
  obtain ⟨h1, h2⟩ := body_alike hR i h
  refine ⟨_, _, _, h2, rfl, ?_⟩
  rw [← h1, exec_eq_perform]
  rcases hroom with h0 | h0
  · rw [h0, perform_idle _ _ _ (hseq.trans hq)]
  · rw [perform_ready]
    exact ⟨hseq.trans hq, by rw [hpar, hnest]; exact h0⟩

/-! ### The relations -/

/-- Nothing reads the other sessions (60_exceptions.md R146). -/
theorem alike_parked (others : List (Nat × Session)) : Alike fun s t => t = { s with parked := others } where
  par := by rintro s t rfl; rfl
  unit := by rintro s t rfl; rfl
  maxValue := by rintro s t rfl; rfl
  draws := by rintro s t rfl; rfl
  selectLine := by rintro s t rfl; unfold Machine.selectLine; split <;> rfl
  deselectLine := by
    rintro s t rfl
    unfold Machine.deselectLine
    split
    · rfl
    · split <;> rfl
  reply := by rintro s t tx rfl; rfl
  transferByte := by rintro s t tx rfl; rfl
  drawn := by rintro s t rfl; rfl

/-- Nothing reads the sequencer position while an operation runs. -/
theorem alike_seq : Alike fun s t => ∃ q, t = { s with seq := q } where
  par := by rintro s t ⟨q, rfl⟩; rfl
  unit := by rintro s t ⟨q, rfl⟩; rfl
  maxValue := by rintro s t ⟨q, rfl⟩; rfl
  draws := by rintro s t ⟨q, rfl⟩; rfl
  selectLine := by rintro s t ⟨q, rfl⟩; refine ⟨q, ?_⟩; unfold Machine.selectLine; split <;> rfl
  deselectLine := by
    rintro s t ⟨q, rfl⟩
    refine ⟨q, ?_⟩
    unfold Machine.deselectLine
    split
    · rfl
    · split <;> rfl
  reply := by rintro s t tx ⟨q, rfl⟩; rfl
  transferByte := by rintro s t tx ⟨q, rfl⟩; exact ⟨q.bump, rfl⟩
  drawn := by rintro s t ⟨q, rfl⟩; exact ⟨q, rfl⟩

/-- Nothing reads the history or the responses (10_state.md R23, R30). -/
theorem alike_hist (h0 h1 : List Event) (rs : List Response) :
    Alike fun s t => ∃ evs, s.hist = h0 ++ evs ∧ t = { s with hist := h1 ++ evs, responses := rs } where
  par := by rintro s t ⟨evs, hs, rfl⟩; rfl
  unit := by rintro s t ⟨evs, hs, rfl⟩; rfl
  maxValue := by rintro s t ⟨evs, hs, rfl⟩; rfl
  draws := by rintro s t ⟨evs, hs, rfl⟩; rfl
  selectLine := by
    rintro s t ⟨evs, hs, rfl⟩
    unfold Machine.selectLine
    split
    · exact ⟨evs ++ [.busMode s.par.busCfg, .assertLine s.sess.cfg.selectId],
        by simp [hs], by simp [State.emit, State.setNest]⟩
    · exact ⟨evs, hs, rfl⟩
  deselectLine := by
    rintro s t ⟨evs, hs, rfl⟩
    unfold Machine.deselectLine
    split
    · exact ⟨evs, hs, rfl⟩
    · split
      · exact ⟨evs ++ [.deassertLine s.sess.cfg.selectId],
          by simp [hs], by simp [State.emit, State.setNest]⟩
      · exact ⟨evs, hs, rfl⟩
  reply := by rintro s t tx ⟨evs, hs, rfl⟩; rfl
  transferByte := by
    rintro s t tx ⟨evs, hs, rfl⟩
    exact ⟨evs ++ [.xfer tx (s.env.answer s.par s.draws tx).1], by simp [Machine.transferByte, hs],
      by simp [Machine.transferByte]⟩
  drawn := by rintro s t ⟨evs, hs, rfl⟩; exact ⟨evs, hs, rfl⟩

/-- Nothing reads the wiper configuration (10_state.md R17). -/
theorem alike_wiperCfg (w : WiperCfg) :
    Alike fun s t => t = { s with sess := { s.sess with cfg := { s.sess.cfg with wiperCfg := w } } } where
  par := by rintro s t rfl; rfl
  unit := by rintro s t rfl; rfl
  maxValue := by rintro s t rfl; rfl
  draws := by rintro s t rfl; rfl
  selectLine := by rintro s t rfl; unfold Machine.selectLine; split <;> rfl
  deselectLine := by
    rintro s t rfl
    unfold Machine.deselectLine
    split
    · rfl
    · split <;> rfl
  reply := by rintro s t tx rfl; rfl
  transferByte := by rintro s t tx rfl; rfl
  drawn := by rintro s t rfl; rfl

end Sys2Proof.Machine
end

