-- ==== Sys2Proof/Tests/Slice0.lean ====
section
/-! SUPPORT. The model's own tests: ill-formed terms refused, words written out from the encodings, one or two steps for
each instruction with the expected events and results of 95_test_vectors.md (its vector named in each comment), and for
each statement with hypotheses a state that meets them. -/

namespace Sys2Proof.Tests

open Sys2Proof.Machine

/-! ### Helpers -/

/-- A fresh session under REF, and the environment it talks to. -/
def fresh (unit : UnitIndex) (resolution : Resolution) (wiperCfg : WiperCfg) (env : Env) : State :=
  { State.construct refParams { selectId := 0, unit := unit, resolution := resolution, wiperCfg := wiperCfg } with
    env := env }

/-- The session of State.reset's options, talking to an oracle that answers `script`. -/
def scripted (script : List Byte) : State := fresh .unit0 .res8bit .potentiometer (.oracle script)

/-- The same, of unit 1. -/
def scripted1 (script : List Byte) : State := fresh .unit1 .res8bit .potentiometer (.oracle script)

/-- The same session, selected `n` times already. -/
def held (n : Nat) (s : State) : State := { s with sess := { s.sess with nest := n }, lines := [0] }

/-- A dual-unit chip of full scale 256 (20_memory.md R53), all its wipers at `w`. -/
def chip (w tcon status : Data9) : Rsp :=
  { dual := true, full := 256#9, wiper0 := w, wiper1 := w, tcon := tcon, status := status, phase := .cmd }

/-- Unit 0 with a chip. -/
def onChip (w tcon status : Data9) : State := fresh .unit0 .res8bit .potentiometer (.responder (chip w tcon status))

/-- Unit 1 with a chip. -/
def onChip1 (w tcon status : Data9) : State := fresh .unit1 .res8bit .potentiometer (.responder (chip w tcon status))

/-- The events of one operation, in its frame at `nest = 0`. -/
def framedBy (evs : List Event) : List Event :=
  [.busMode refParams.busCfg, .assertLine 0] ++ evs ++ [.deassertLine 0]

/-- What a run shows: the events, the responses and the counter. -/
def shown : Host.Outcome State Fault Refusal → Option (List Event × List Response × Nat)
  | .next t => some (t.hist, t.responses, t.sess.nest)
  | .fault _ => none
  | .refused _ => none

/-- What a run shows whose response holds a free value: the events and the counter. -/
def events : Host.Outcome State Fault Refusal → Option (List Event × Nat)
  | .next t => some (t.hist, t.sess.nest)
  | .fault _ => none
  | .refused _ => none

/-- The environment a run leaves. -/
def envAfter : Host.Outcome State Fault Refusal → Option Env
  | .next t => some t.env
  | .fault _ => none
  | .refused _ => none

/-- Why a run was refused. -/
def refusal : Host.Outcome State Fault Refusal → Option Refusal
  | .next _ => none
  | .fault _ => none
  | .refused r => some r

/-- What a decoder answers, as an option. -/
def decoded (f : Frame) : Option Instr :=
  match decode refParams f with
  | .ok i => some i
  | .error _ => none

/-- Why a decoder rejects. -/
def rejected (f : Frame) : Option Reject :=
  match decode refParams f with
  | .ok _ => none
  | .error r => some r

/-! ### Ill-formed terms -/

theorem test_wf_write_address : ¬ WellFormed (.cmdWrite 0x10#8 0#16) := by decide
theorem test_wf_write_data : ¬ WellFormed (.cmdWrite 0#8 0x200#16) := by decide
theorem test_wf_read_address : ¬ WellFormed (.cmdRead 0x10#8) := by decide
theorem test_wf_incr_address : ¬ WellFormed (.cmdIncr 0x10#8) := by decide
theorem test_wf_decr_address : ¬ WellFormed (.cmdDecr 0xFF#8) := by decide

/-! ### Words written out from the encodings (30_encoding.md R57, R58, R63, R78) -/

-- V-C29b: addr 0100, op 00, probe 1, d8 1, then d7..d0
theorem test_decode_write : decoded (.wire [0b01000011#8, 0b11110111#8]) = some (.cmdWrite 0x4#8 0x1F7#16) := by decide
-- V-C26
theorem test_decode_read : decoded (.wire [0b01011111#8, 0b11111111#8]) = some (.cmdRead 0x5#8) := by decide
-- the data bits of a read are don't-cares (R68)
theorem test_decode_read_any_data : decoded (.wire [0b00011110#8, 0b01010101#8]) = some (.cmdRead 0x1#8) := by decide
-- V-C6
theorem test_decode_short_incr : decoded (.wire [0b00010110#8]) = some (.cmdIncr 0x1#8) := by decide
-- V-C3
theorem test_decode_short_decr : decoded (.wire [0b00001010#8]) = some (.cmdDecr 0x0#8) := by decide
theorem test_decode_maxval : decoded (.host 0b00000#5 9#16 true) = some .maxval := by decide
theorem test_decode_incr : decoded (.host 0b00001#5 9#16 true) = some .incr := by decide
theorem test_decode_decr : decoded (.host 0b00010#5 9#16 true) = some .decr := by decide
theorem test_decode_set : decoded (.host 0b00011#5 300#16 true) = some (.set 300#16) := by decide
theorem test_decode_get : decoded (.host 0b00100#5 9#16 true) = some .get := by decide
theorem test_decode_getv : decoded (.host 0b00101#5 9#16 true) = some .getv := by decide
theorem test_decode_setta : decoded (.host 0b00110#5 9#16 true) = some (.setta true) := by decide
theorem test_decode_getta : decoded (.host 0b00111#5 9#16 true) = some .getta := by decide
theorem test_decode_gettav : decoded (.host 0b01000#5 9#16 true) = some .gettav := by decide
theorem test_decode_settb : decoded (.host 0b01001#5 9#16 false) = some (.settb false) := by decide
theorem test_decode_gettb : decoded (.host 0b01010#5 9#16 true) = some .gettb := by decide
theorem test_decode_gettbv : decoded (.host 0b01011#5 9#16 true) = some .gettbv := by decide
theorem test_decode_setw : decoded (.host 0b01100#5 9#16 true) = some (.setw true) := by decide
theorem test_decode_getw : decoded (.host 0b01101#5 9#16 true) = some .getw := by decide
theorem test_decode_getwv : decoded (.host 0b01110#5 9#16 true) = some .getwv := by decide
theorem test_decode_setshdn : decoded (.host 0b01111#5 9#16 true) = some (.setshdn true) := by decide
theorem test_decode_getshdn : decoded (.host 0b10000#5 9#16 true) = some .getshdn := by decide
theorem test_decode_getshdnv : decoded (.host 0b10001#5 9#16 true) = some .getshdnv := by decide
theorem test_decode_gethwshdn : decoded (.host 0b10010#5 9#16 true) = some .gethwshdn := by decide
theorem test_decode_select : decoded (.host 0b10011#5 9#16 true) = some .select := by decide
theorem test_decode_deselect : decoded (.host 0b10100#5 9#16 true) = some .deselect := by decide
-- V-H3, V-H4
theorem test_reject_code_21 : rejected (.host 21#5 0#16 false) = some (.reservedRequest 21#5) := by decide
theorem test_reject_code_31 : rejected (.host 31#5 0#16 false) = some (.reservedRequest 31#5) := by decide
theorem test_reject_probe_clear : rejected (.wire [0x04#8]) = some .probeBitClear := by decide
theorem test_reject_short_bit_zero : rejected (.wire [0x07#8]) = some .shortBitZeroSet := by decide
theorem test_reject_cut_write : rejected (.wire [0x03#8]) = some .missingSecondByte := by decide
theorem test_reject_long_incr : rejected (.wire [0x06#8, 0x00#8]) = some .trailingBytes := by decide
theorem test_reject_three_bytes : rejected (.wire [0x0F#8, 0xFF#8, 0x00#8]) = some .trailingBytes := by decide
theorem test_reject_no_bytes : rejected (.wire []) = some .noBytes := by decide

/-! ### The codec (95_test_vectors.md 2.1) -/

-- V-C18, V-C19: operands wider than their fields
theorem test_codec_masks : enc8 0x10#8 0#8 = 0x02#8 ∧ enc8 0#8 0b101#8 = 0x06#8 := by decide
-- V-C21, V-C29
theorem test_codec_long : enc16 0#8 0#8 0x100#16 = 0x0300#16 ∧ enc16 0#8 0#8 0x3FF#16 = 0x03FF#16 := by decide
-- V-C32, V-C36, V-C37
theorem test_codec_verdict : isValid 0xFD#8 = false ∧ isValid 0x01#8 = false ∧ isValid 0xFE#8 = true := by decide
-- V-C43, V-C44
theorem test_codec_data : decData 0xFF#8 0x00#8 = 0x100#9 ∧ decData 0xFE#8 0xFF#8 = 0x0FF#9 := by decide

/-! ### Wire commands (95_test_vectors.md 2.2) -/

-- V-S13
theorem test_cmdWrite : shown (exec (.cmdWrite 0x1#8 0x0C8#16) (scripted [0x12#8, 0xFF#8])) =
    some (framedBy [.xfer 0x12#8 0x12#8, .xfer 0xC8#8 0xFF#8], [.ok true], 0) := by decide
-- V-S14
theorem test_cmdWrite_refused : shown (exec (.cmdWrite 0x1#8 0x0C8#16) (scripted [0x10#8])) =
    some (framedBy [.xfer 0x12#8 0x10#8], [.ok false], 0) := by decide
-- V-S16
theorem test_cmdRead_nested : shown (exec (.cmdRead 0x4#8) (held 1 (scripted [0x4F#8, 0xA5#8]))) =
    some ([.xfer 0x4F#8 0x4F#8, .xfer 0xFF#8 0xA5#8], [.okData true 0x1A5#9], 1) := by decide
-- V-S12
theorem test_cmdRead_refused : events (exec (.cmdRead 0x0#8) (scripted [0x0D#8])) =
    some (framedBy [.xfer 0x0F#8 0x0D#8], 0) := by decide
-- V-S9
theorem test_cmdIncr : shown (exec (.cmdIncr 0x0#8) (scripted [0x06#8])) =
    some (framedBy [.xfer 0x06#8 0x06#8], [.ok true], 0) := by decide
-- V-S10
theorem test_cmdIncr_refused : shown (exec (.cmdIncr 0x0#8) (scripted [0x04#8])) =
    some (framedBy [.xfer 0x06#8 0x04#8], [.ok false], 0) := by decide
-- V-S15
theorem test_cmdDecr_nested : shown (exec (.cmdDecr 0x1#8) (held 3 (scripted [0x1A#8]))) =
    some ([.xfer 0x1A#8 0x1A#8], [.ok true], 3) := by decide

/-! ### Wiper operations (95_test_vectors.md 2.3) -/

-- V-W21
theorem test_maxval_128 : shown (exec .maxval (fresh .unit0 .res7bit .potentiometer (.oracle []))) =
    some ([], [.value 128#16], 0) := by decide
-- V-W22
theorem test_maxval_255 : shown (exec .maxval (fresh .unit0 .res8bit .rheostat (.oracle []))) =
    some ([], [.value 255#16], 0) := by decide
-- V-W43: at full scale the step is sent all the same
theorem test_incr_full_scale : envAfter (exec .incr (onChip1 256#9 0x1FF#9 0x1F0#9)) =
    some (.responder (chip 256#9 0x1FF#9 0x1F0#9)) := by decide
-- V-W46
theorem test_incr_refused : shown (exec .incr (scripted1 [0x14#8])) =
    some (framedBy [.xfer 0x16#8 0x14#8], [.ok false], 0) := by decide
-- V-W44
theorem test_decr : shown (exec .decr (onChip1 256#9 0x1FF#9 0x1F0#9)) =
    some (framedBy [.xfer 0x1A#8 0x1A#8], [.ok true], 0) := by decide
-- 42_wiper.md R104, its example
theorem test_decr_refused : shown (exec .decr (scripted1 [0x18#8])) =
    some (framedBy [.xfer 0x1A#8 0x18#8], [.ok false], 0) := by decide
-- V-W13: the clamp acts on all 16 bits
theorem test_set_clamps : shown (exec (.set 341#16) (onChip1 0#9 0x1FF#9 0x1F0#9)) =
    some (framedBy [.xfer 0x13#8 0x13#8, .xfer 0x00#8 0xFF#8], [.ok true], 0) := by decide
-- V-W14
theorem test_set_refused : shown (exec (.set 10#16) (scripted1 [0x00#8])) =
    some (framedBy [.xfer 0x12#8 0x00#8], [.ok false], 0) := by decide
-- V-W33
theorem test_get : shown (exec .get (onChip 256#9 0x1FF#9 0x1F0#9)) =
    some (framedBy [.xfer 0x0F#8 0x0F#8, .xfer 0xFF#8 0x00#8], [.okValue true 256#16], 0) := by decide
-- V-W36: no check against max_value
theorem test_get_above_max : shown (exec .get (onChip 0x1FF#9 0x1FF#9 0x1F0#9)) =
    some (framedBy [.xfer 0x0F#8 0x0F#8, .xfer 0xFF#8 0xFF#8], [.okValue true 511#16], 0) := by decide
-- V-W34
theorem test_getv : shown (exec .getv (onChip1 0x07F#9 0x1FF#9 0x1F0#9)) =
    some (framedBy [.xfer 0x1F#8 0x1E#8, .xfer 0xFF#8 0x7F#8], [.value 127#16], 0) := by decide
-- V-W16
theorem test_getv_sentinel : shown (exec .getv (scripted1 [0x1D#8])) =
    some (framedBy [.xfer 0x1F#8 0x1D#8], [.value 0xFFFF#16], 0) := by decide

/-! ### TCON and status operations (95_test_vectors.md 2.4) -/

-- V-T2
theorem test_setta_unit1 : shown (exec (.setta false) (onChip1 0#9 0x1FF#9 0x1F0#9)) =
    some (framedBy [.xfer 0x4F#8 0x4F#8, .xfer 0xFF#8 0xFF#8, .xfer 0x43#8 0x43#8, .xfer 0xBF#8 0xFF#8],
      [.ok true], 0) := by decide
-- V-T8: bit 8 forced, not preserved (conflict C2)
theorem test_setta_forces_bit8 : shown (exec (.setta false) (onChip 0#9 0x0F3#9 0x1F0#9)) =
    some (framedBy [.xfer 0x4F#8 0x4E#8, .xfer 0xFF#8 0xF3#8, .xfer 0x43#8 0x43#8, .xfer 0xF3#8 0xFF#8],
      [.ok true], 0) := by decide
-- V-T11: the other unit's nibble is kept
theorem test_settb_unit1 : envAfter (exec (.settb true) (onChip1 0#9 0x1A5#9 0x1F0#9)) =
    some (.responder (chip 0#9 0x1B5#9 0x1F0#9)) := by decide
-- V-T15
theorem test_settb_read_refused : shown (exec (.settb true) (scripted [0x4D#8])) =
    some (framedBy [.xfer 0x4F#8 0x4D#8], [.ok false], 0) := by decide
-- V-T12
theorem test_setw : envAfter (exec (.setw true) (onChip 0#9 0x000#9 0x1F0#9)) =
    some (.responder (chip 0#9 0x102#9 0x1F0#9)) := by decide
-- V-T16
theorem test_setw_write_refused : shown (exec (.setw false) (scripted [0x4E#8, 0xF3#8, 0x41#8])) =
    some (framedBy [.xfer 0x4F#8 0x4E#8, .xfer 0xFF#8 0xF3#8, .xfer 0x43#8 0x41#8], [.ok false], 0) := by decide
-- V-T7
theorem test_setshdn_clears : envAfter (exec (.setshdn true) (onChip 0#9 0x1FF#9 0x1F0#9)) =
    some (.responder (chip 0#9 0x1F7#9 0x1F0#9)) := by decide
-- V-T9
theorem test_setshdn_sets : envAfter (exec (.setshdn false) (onChip1 0#9 0x17F#9 0x1F0#9)) =
    some (.responder (chip 0#9 0x1FF#9 0x1F0#9)) := by decide
-- V-T21
theorem test_getta : shown (exec .getta (onChip1 0#9 0x1BF#9 0x1F0#9)) =
    some (framedBy [.xfer 0x4F#8 0x4F#8, .xfer 0xFF#8 0xBF#8], [.okFlag true false], 0) := by decide
-- V-T31
theorem test_getta_refused : events (exec .getta (scripted [0x4D#8])) =
    some (framedBy [.xfer 0x4F#8 0x4D#8], 0) := by decide
-- V-T29, the value form
theorem test_gettav : shown (exec .gettav (onChip 0#9 0x004#9 0x1F0#9)) =
    some (framedBy [.xfer 0x4F#8 0x4E#8, .xfer 0xFF#8 0x04#8], [.flag true], 0) := by decide
-- V-T31
theorem test_gettav_refused : events (exec .gettav (scripted [0x4D#8])) =
    some (framedBy [.xfer 0x4F#8 0x4D#8], 0) := by decide
-- V-T22
theorem test_gettb : shown (exec .gettb (onChip1 0#9 0x110#9 0x1F0#9)) =
    some (framedBy [.xfer 0x4F#8 0x4F#8, .xfer 0xFF#8 0x10#8], [.okFlag true true], 0) := by decide
-- V-T23, the value form
theorem test_gettbv : shown (exec .gettbv (onChip 0#9 0x1FE#9 0x1F0#9)) =
    some (framedBy [.xfer 0x4F#8 0x4F#8, .xfer 0xFF#8 0xFE#8], [.flag false], 0) := by decide
-- V-T30
theorem test_getw : shown (exec .getw (onChip1 0#9 0x0DF#9 0x1F0#9)) =
    some (framedBy [.xfer 0x4F#8 0x4E#8, .xfer 0xFF#8 0xDF#8], [.okFlag true false], 0) := by decide
-- V-T25, the value form
theorem test_getwv : shown (exec .getwv (onChip1 0#9 0x120#9 0x1F0#9)) =
    some (framedBy [.xfer 0x4F#8 0x4F#8, .xfer 0xFF#8 0x20#8], [.flag true], 0) := by decide
-- V-T26
theorem test_getshdn : shown (exec .getshdn (onChip 0#9 0x1F7#9 0x1F0#9)) =
    some (framedBy [.xfer 0x4F#8 0x4F#8, .xfer 0xFF#8 0xF7#8], [.okFlag true true], 0) := by decide
-- V-T27, the value form
theorem test_getshdnv : shown (exec .getshdnv (onChip1 0#9 0x1FF#9 0x1F0#9)) =
    some (framedBy [.xfer 0x4F#8 0x4F#8, .xfer 0xFF#8 0xFF#8], [.flag false], 0) := by decide
-- V-T42
theorem test_gethwshdn : shown (exec .gethwshdn (onChip1 0#9 0x1FF#9 0x002#9)) =
    some (framedBy [.xfer 0x5F#8 0x5E#8, .xfer 0xFF#8 0x02#8], [.okFlag true true], 0) := by decide
-- V-T43: every bit but bit 1
theorem test_gethwshdn_off : shown (exec .gethwshdn (onChip 0#9 0x1FF#9 0x1FD#9)) =
    some (framedBy [.xfer 0x5F#8 0x5F#8, .xfer 0xFF#8 0xFD#8], [.okFlag true false], 0) := by decide

/-! ### The critical section and the request port (95_test_vectors.md 2.2, 2.5) -/

-- V-S1
theorem test_select : shown (exec .select State.reset) =
    some ([.busMode refParams.busCfg, .assertLine 0], [.none], 1) := by decide
-- V-S8
theorem test_select_last : shown (exec .select (held 254 State.reset)) = some ([], [.none], 255) := by decide
-- V-S4
theorem test_deselect : shown (exec .deselect (held 1 State.reset)) = some ([.deassertLine 0], [.none], 0) := by decide
-- V-S5, V-H5
theorem test_deselect_floor : shown (step (State.reset.withFetchWord 5 20)) = some ([], [.none], 0) := by decide
-- V-S7
theorem test_select_overflow : refusal (exec .select (held 255 State.reset)) = some .nestOverflow := by decide
-- V-S18
theorem test_transfer_overflow : refusal (exec .incr (held 255 State.reset)) = some .nestOverflow := by decide
-- V-S19
theorem test_update_overflow : refusal (exec (.setta true) (held 254 State.reset)) = some .nestOverflow := by decide
-- V-H1
theorem test_request_maxval : shown (step (State.reset.withFetchWord 5 0)) = some ([], [.value 256#16], 0) := by decide
-- V-H3
theorem test_request_reserved : refusal (step (State.reset.withFetchWord 5 21)) = some .reservedRequest := by decide
theorem test_request_unknown_session :
    refusal (step { State.reset with pending := [{ session := 7, frame := .host 0#5 0#16 false }] }) =
      some .noSuchSession := by decide
theorem test_request_bad_wire :
    refusal (step { State.reset with pending := [{ session := 0, frame := .wire [0x04#8] }] }) =
      some (.notAWireCommand .probeBitClear) := by decide

/-- Two sessions on the two units of one chip, with one select line (95_test_vectors.md P2). -/
def twoUnits : State :=
  { fresh .unit0 .res7bit .potentiometer
      (.responder { chip 0x040#9 0x1A5#9 0x1F0#9 with full := 128#9 }) with
    parked := [(1, Session.construct
      { selectId := 0, unit := .unit1, resolution := .res7bit, wiperCfg := .potentiometer })]
    pending := [{ session := 1, frame := .host 12#5 0#16 false }] }

-- P2, its second step: a request to the parked session
theorem test_second_session : envAfter (step twoUnits) =
    some (.responder { chip 0x040#9 0x185#9 0x1F0#9 with full := 128#9 }) := by decide

/-- The same two units on two chips, each with a line of its own. -/
def twoLines : State :=
  { twoUnits with
    parked := [(1, Session.construct
      { selectId := 1, unit := .unit1, resolution := .res7bit, wiperCfg := .potentiometer })] }

/-! ### The hypotheses of the statements can be met

A state selected `n` times is `held n`; 254 and 253 are the last counts from which one and two more `SELECT`s fit. -/

theorem reset_ready (d : Nat) (h : d ≤ 255) : State.reset.Ready d := ⟨rfl, by
  show 0 + d ≤ 255
  omega⟩
theorem reset_agrees : State.reset.LineAgrees := by unfold State.LineAgrees; decide
theorem held_agrees (n : Nat) (h : 0 < n) : (held n State.reset).LineAgrees :=
  ⟨fun _ => h, fun _ => rfl⟩

theorem witness_DecodeOfEncode : refParams.Ok ∧ WellFormed (.cmdWrite 0xF#8 0x1FF#16) := by decide
theorem witness_EncodeOfDecode : decoded (.wire [0x0E#8, 0x00#8]) = some (.cmdRead 0#8) ∧
    decoded (.wire [0x43#8, 0xFF#8]) = some (.cmdWrite 4#8 0x1FF#16) ∧
    decoded (.host 3#5 0xFFFF#16 true) = some (.set 0xFFFF#16) ∧
    decoded (.host 15#5 0xFFFF#16 true) = some (.setshdn true) := by decide
theorem witness_StepRunsDecodedInstruction :
    (State.reset.withFetchWord 5 1).pending = [{ session := 0, frame := .host 1#5 0#16 false }] ∧
    (State.reset.withFetchWord 5 1).address 0 = some (State.reset.withFetchWord 5 1) ∧
    decoded (.host 1#5 0#16 false) = some .incr := by decide
theorem witness_StepWaitsForRequest : State.reset.pending = [] := rfl
theorem witness_RequestReachesItsSession :
    (twoUnits.address 1).map (fun s => (s.current, s.sess.cfg.unit, s.parked.length)) = some (1, .unit1, 1) ∧
    (twoUnits.address 0).map (fun s => s.current) = some 0 := by decide
theorem witness_RefusalsOfTheModel_depth :
    State.reset.seq = .idle ∧ 0 < depthOf (.setw true) ∧ (held 254 State.reset).sess.nest + depthOf (.setw true) = 256 ∧
    (held 254 State.reset).sess.nest + depthOf .select = 255 ∧ depthOf .deselect = 0 ∧ depthOf .maxval = 0 := by decide
theorem witness_RefusalsOfTheModel_codes :
    (State.reset.withFetchWord 5 21).pending = [{ session := 0, frame := .host 21#5 0#16 false }] ∧
    (State.reset.withFetchWord 5 31).pending = [{ session := 0, frame := .host 31#5 0#16 false }] ∧
    21 ≤ (21#5).toNat ∧ 21 ≤ (31#5).toNat := by decide
theorem witness_EveryOperationCompletes : State.reset.Ready (depthOf .maxval) ∧
    (held 254 State.reset).Ready (depthOf .incr) ∧ (held 253 State.reset).Ready (depthOf (.setta true)) := by
  unfold State.Ready; decide
theorem witness_BusyOperationRefused : (State.reset.start .incr).seq = .busy .incr 0 := rfl
theorem witness_MaxvalResult : State.reset.seq = .idle ∧ State.reset.sess.Ok State.reset.par := by
  unfold Session.Ok; decide
theorem witness_one_transfer : State.reset.Ready 1 ∧ State.reset.LineAgrees ∧
    (held 254 State.reset).Ready 1 ∧ (held 254 State.reset).LineAgrees :=
  ⟨reset_ready 1 (by decide), reset_agrees, ⟨rfl, by decide⟩, held_agrees 254 (by decide)⟩
theorem witness_SetResult_clamp : State.reset.sess.maxValue.toNat < (257#16).toNat := by decide
theorem witness_TconSetterResult : State.reset.Ready 2 ∧ State.reset.LineAgrees ∧
    (held 253 State.reset).Ready 2 ∧ (held 253 State.reset).LineAgrees :=
  ⟨reset_ready 2 (by decide), reset_agrees, ⟨rfl, by decide⟩, held_agrees 253 (by decide)⟩
-- P3: the replies of RSP to `SETSHDN true` and `GETSHDN`, then those to `SETSHDN false`
theorem witness_ShutdownInversion : (scripted [0x4F#8, 0xFF#8, 0x43#8, 0xFF#8, 0x4F#8, 0xF7#8]).Ready 2 ∧
    (scripted []).LineAgrees ∧ refParams.Ok ∧
    EA3 ((scripted []).updated .shdn true (decData 0x4F#8 0xFF#8)) 0x4F#8 0xF7#8 ∧
    EA3 ((scripted []).updated .shdn false (decData 0x4F#8 0xF7#8)) 0x4F#8 0xFF#8 :=
  ⟨⟨rfl, by decide⟩, reset_agrees, by decide, ⟨by decide, by decide⟩, ⟨by decide, by decide⟩⟩
theorem witness_SelectResult : (held 254 State.reset).seq = .idle ∧
    (held 254 State.reset).sess.nest < (held 254 State.reset).par.nestMax ∧
    (held 255 State.reset).sess.nest = (held 255 State.reset).par.nestMax ∧ State.reset.sess.nest = 0 := by decide
theorem witness_DeselectResult : State.reset.seq = .idle ∧ State.reset.sess.nest = 0 ∧
    (held 1 State.reset).sess.nest = 1 ∧ (held 2 State.reset).sess.nest ≠ 1 := by decide
theorem witness_NestedSelectsAssertOnce : State.reset.seq = .idle ∧ State.reset.LineAgrees ∧
    State.reset.sess.nest = 0 ∧ 1 ≤ 255 ∧ 255 ≤ State.reset.par.nestMax :=
  ⟨rfl, reset_agrees, rfl, by decide, by decide⟩
theorem witness_OperationFrame : State.reset.LineAgrees ∧ ∃ t, exec .get State.reset = .next t :=
  ⟨reset_agrees, _, rfl⟩
theorem witness_HistoryGrowsWithinBounds : State.reset.LineAgrees ∧ ∃ t, exec (.setta true) State.reset = .next t :=
  ⟨reset_agrees, _, rfl⟩
theorem witness_OnlyElevenPairsEmitted : isHostOp .decr = true ∧ State.reset.LineAgrees ∧
    ∃ t, exec .decr State.reset = .next t :=
  ⟨rfl, reset_agrees, _, rfl⟩
theorem witness_OtherSessionsUntouchedAndUnread : ∃ t, exec .select twoUnits = .next t := ⟨_, rfl⟩
theorem witness_HistoryAndResponsesUnread : ∃ t, exec .get State.reset = .next t := ⟨_, rfl⟩
theorem witness_WiperConfigUnread : ∃ t, exec (.setta true) State.reset = .next t := ⟨_, rfl⟩
theorem witness_StepKeepsInvariant : twoLines.Inv ∧ ∃ t, step twoLines = .next t := by
  refine ⟨⟨by decide, rfl, ?_, by decide, by decide, by decide, by decide⟩, _, rfl⟩
  unfold Session.Ok
  decide
theorem witness_StepKeepsBusFraming : twoUnits.Serialised ∧ twoUnits.NextRequestSerial ∧ twoUnits.WellFramed ∧
    ∃ t, step twoUnits = .next t :=
  ⟨⟨by decide, fun id => ⟨fun h => (by cases h), fun h => absurd h.2 (by decide)⟩⟩, fun _ _ _ _ => rfl,
    by unfold State.WellFramed; decide, _, rfl⟩
theorem witness_StepKeepsConfiguration : ∃ t, step twoUnits = .next t := ⟨_, rfl⟩
theorem witness_AbsentBusReportsFailure : EA4 0x00#8 ∧ 1 ≤ depthOf (.setw true) ∧
    (fresh .unit1 .res8bit .potentiometer (.constant 0x00#8)).LineAgrees ∧
    ∃ t, exec (.setw true) (fresh .unit1 .res8bit .potentiometer (.constant 0x00#8)) = .next t :=
  ⟨rfl, by decide, ⟨fun h => (by cases h), fun h => absurd h (by decide)⟩, _, rfl⟩
theorem witness_IdleHighBusLooksValid : (fresh .unit0 .res8bit .potentiometer (.constant 0xFF#8)).Ready 1 ∧
    (fresh .unit0 .res8bit .potentiometer (.constant 0xFF#8)).LineAgrees ∧ refParams.Ok :=
  ⟨⟨rfl, by decide⟩, ⟨fun h => (by cases h), fun h => absurd h (by decide)⟩, by decide⟩
theorem witness_ResponderMeetsPremises : refParams.Ok ∧ (chip 256#9 0#9 0#9).phase = .cmd ∧
    (opField 0x0F#8 = refParams.opRead ∧
      (chip 256#9 0#9 0#9).legal refParams (addrField 0x0F#8) (opField 0x0F#8) = true) ∧
    (opField 0x06#8 = refParams.opInc ∧ (chip 256#9 0#9 0#9).reg refParams (addrField 0x06#8) = 256#9) ∧
    (opField 0x1A#8 = refParams.opDec ∧ (chip 0#9 0#9 0#9).reg refParams (addrField 0x1A#8) = 0) := by decide
theorem witness_ResponderWiperRoundTrip : (onChip1 0#9 0x1FF#9 0x1F0#9).Inv ∧
    (onChip1 0#9 0x1FF#9 0x1F0#9).Ready 1 ∧ (chip 0#9 0x1FF#9 0x1F0#9).phase = .cmd ∧
    (chip 0#9 0x1FF#9 0x1F0#9).dual = true := by
  refine ⟨⟨by decide, rfl, ?_, by decide, by decide, by decide, by decide⟩, ⟨rfl, by decide⟩, rfl, rfl⟩
  unfold Session.Ok
  decide

end Sys2Proof.Tests
end

section
/-! SUPPORT. The statements about the state (10_state.md): what no operation reads, what no step writes, and the
invariant every step keeps. -/

namespace Sys2Proof.Machine

/-! ### What an instruction leaves -/

theorem start_kept (s : State) (i : Instr) : Kept s (s.start i) := ⟨rfl, rfl, rfl, rfl, rfl, rfl, rfl⟩

/-- An instruction that answers a next state ran its body, which wrote no kept field, and returned one response. -/
theorem exec_kept {i : Instr} {s t : State} (h : exec i s = .next t) : ∃ u r, Kept s u ∧ t = u.finish r := by
  obtain ⟨-, -, rfl⟩ := exec_next h
  exact ⟨_, _, (start_kept s i).trans (body_kept i _), rfl⟩

/-- An instruction that answers a next state adds one response (10_state.md R30). -/
theorem exec_responses {i : Instr} {s t : State} (h : exec i s = .next t) :
    ∃ r, t.responses = s.responses ++ [r] := by
  obtain ⟨u, r, hk, rfl⟩ := exec_kept h
  exact ⟨r, by rw [finish_responses, hk.responses]⟩

/-- An instruction writes no parameter (00_scope.md R8). -/
theorem exec_par {i : Instr} {s t : State} (h : exec i s = .next t) : t.par = s.par := by
  obtain ⟨u, r, hk, rfl⟩ := exec_kept h
  exact hk.par

/-- An instruction writes no session's name, configuration or `max_value` (10_state.md R14 to R18). -/
theorem exec_configuration {i : Instr} {s t : State} (h : exec i s = .next t) :
    (t.sessions.map fun p => (p.1, p.2.cfg, p.2.maxValue)) =
      s.sessions.map fun p => (p.1, p.2.cfg, p.2.maxValue) := by
  obtain ⟨u, r, hk, rfl⟩ := exec_kept h
  simp [State.sessions, hk.current, hk.cfg, hk.maxValue, hk.parked]

/-! ### What a step runs -/

/-- Turning to a session rearranges the sessions and changes nothing else (60_exceptions.md R146). -/
theorem address_turns {s s1 : State} {n : Nat} (h : s.address n = some s1) :
    s1.sessions.Perm s.sessions ∧
      s1 = { s with current := s1.current, sess := s1.sess, parked := s1.parked } := by
  unfold State.address at h
  split at h
  · cases h
    exact ⟨.refl _, rfl⟩
  · simp only [Option.map_eq_some_iff, Prod.exists] at h
    obtain ⟨x, ps, hx, rfl⟩ := h
    exact ⟨(exchangeSession_spec n _ _ x ps hx).2, rfl⟩

/-- A step waits, or runs one instruction from a state with the same sessions, parameters, `seq` and lines. -/
theorem step_runs {s t : State} (h : step s = .next t) :
    t = s ∨ ∃ s1 i, s1.par = s.par ∧ s1.seq = s.seq ∧ s1.lines = s.lines ∧ s1.sessions.Perm s.sessions ∧
      exec i s1 = .next t := by
  rcases step_cases h with ⟨-, rfl⟩ | ⟨q, rest, s1, i, -, ha, -, hx⟩
  · exact .inl rfl
  · obtain ⟨hperm, hs1⟩ := address_turns ha
    exact .inr ⟨{ s1 with pending := rest }, i, by rw [hs1], by rw [hs1], by rw [hs1], hperm, hx⟩

/-! ### The lines -/

theorem mem_linesAfter_assert (id x : SelectId) (lines : List SelectId) :
    id ∈ linesAfter (.assertLine x) lines ↔ id = x ∨ id ∈ lines := by
  by_cases hx : x ∈ lines
  · simp only [linesAfter, hx, if_true, iff_or_self]
    rintro rfl
    exact hx
  · simp [linesAfter, hx]

theorem mem_linesAfter_deassert (id x : SelectId) (lines : List SelectId) :
    id ∈ linesAfter (.deassertLine x) lines ↔ id ∈ lines ∧ id ≠ x := by
  simp [linesAfter]

/-- No event lists a line twice. -/
theorem nodup_linesAfter (e : Event) {lines : List SelectId} (h : lines.Nodup) : (linesAfter e lines).Nodup := by
  cases e with
  | busMode c => exact h
  | assertLine id =>
    by_cases hid : id ∈ lines <;> simpa [linesAfter, hid] using h
  | deassertLine id => exact h.filter _
  | xfer tx rx => exact h

/-- `t` differs from `s` in no line but that of the current session, which still agrees with the counter
(10_state.md R20). -/
structure OwnLineOnly (s t : State) : Prop where
  once : s.lines.Nodup → t.lines.Nodup
  agrees : s.LineAgrees → t.LineAgrees
  others : ∀ id, id ≠ s.sess.cfg.selectId → (id ∈ t.lines ↔ id ∈ s.lines)

theorem selectLine_ownLineOnly (s : State) : OwnLineOnly s (selectLine s) := by
  by_cases hn : s.sess.nest = 0
  · have hlines : (selectLine s).lines = linesAfter (.assertLine s.sess.cfg.selectId) s.lines := by
      rw [selectLine_outer s hn]
      rfl
    refine ⟨fun h => hlines ▸ nodup_linesAfter _ h, selectLine_lineAgrees s, fun id hid => ?_⟩
    simp [hlines, mem_linesAfter_assert, hid]
  · have hlines : (selectLine s).lines = s.lines := by rw [selectLine_inner s hn, setNest_lines]
    exact ⟨fun h => hlines ▸ h, selectLine_lineAgrees s, fun id _ => by rw [hlines]⟩

theorem deselectLine_nest (s : State) : (deselectLine s).sess.nest = s.sess.nest - 1 := by
  unfold deselectLine
  split
  · omega
  · split <;> rfl

theorem deselectLine_ownLineOnly (s : State) : OwnLineOnly s (deselectLine s) := by
  have hcfg : (deselectLine s).sess.cfg = s.sess.cfg := (deselectLine_kept s).cfg
  by_cases hn : s.sess.nest = 1
  · have hlines : (deselectLine s).lines = linesAfter (.deassertLine s.sess.cfg.selectId) s.lines := by
      rw [deselectLine_outer s hn]
      rfl
    refine ⟨fun h => hlines ▸ nodup_linesAfter _ h, fun _ => ?_, fun id hid => ?_⟩
    · simp [lineAgrees_iff, hcfg, hlines, mem_linesAfter_deassert, deselectLine_nest, hn]
    · simp [hlines, mem_linesAfter_deassert, hid]
  · have hlines : (deselectLine s).lines = s.lines := by
      by_cases h0 : s.sess.nest = 0
      · rw [deselectLine_floor s h0]
      · rw [deselectLine_inner s (by omega), setNest_lines]
    refine ⟨fun h => hlines ▸ h, fun h => ?_, fun id _ => by rw [hlines]⟩
    rw [lineAgrees_iff] at h ⊢
    rw [hcfg, hlines, deselectLine_nest, h]
    omega

/-- Every body moves no line but its session's own, and raises the counter by at most its depth
(41_select_transfer.md R91, R92, R94). -/
theorem body_ownLineOnly (i : Instr) (s : State) (h : s.LineAgrees) :
    OwnLineOnly s (bodyOf i s).2 ∧ (bodyOf i s).2.sess.nest ≤ s.sess.nest + depthOf i := by
  by_cases hs : i = .select
  · subst hs
    exact ⟨selectLine_ownLineOnly s, (selectLine_nest s).le⟩
  by_cases hd : i = .deselect
  · subst hd
    exact ⟨deselectLine_ownLineOnly s, (deselectLine_nest s).trans_le (Nat.sub_le ..)⟩
  obtain ⟨evs, e, d, q, r, hx⟩ := body_ran i s h hs hd
  rw [hx]
  exact ⟨⟨id, ran_lineAgrees s evs e d q, fun _ _ => .rfl⟩, Nat.le_add_right ..⟩

/-! ### The invariant -/

theorem State.Inv.lineAgrees {s : State} (h : s.Inv) : s.LineAgrees :=
  h.linesAgree (s.current, s.sess) (List.mem_cons_self ..)

/-- A parked session is not on the current session's line (10_state.md R14). -/
theorem State.Inv.parked_selectId_ne {s : State} (h : s.Inv) {p : Nat × Session} (hp : p ∈ s.parked) :
    p.2.cfg.selectId ≠ s.sess.cfg.selectId := by
  obtain ⟨hnew, -⟩ := List.nodup_cons.1 h.owners
  intro heq
  exact hnew (List.mem_map.2 ⟨p, hp, heq⟩)

/-- The invariant does not depend on which session is the current one. -/
theorem State.Inv.of_perm {s t : State} (h : s.Inv) (hpar : t.par = s.par) (hseq : t.seq = s.seq)
    (hlines : t.lines = s.lines) (hperm : t.sessions.Perm s.sessions) : t.Inv where
  params := hpar ▸ h.params
  idle := hseq.trans h.idle
  sessionsOk p hp := hpar ▸ h.sessionsOk p (hperm.mem_iff.1 hp)
  names := (hperm.map _).nodup_iff.2 h.names
  owners := (hperm.map _).nodup_iff.2 h.owners
  linesOnce := hlines ▸ h.linesOnce
  linesAgree p hp := by
    rw [lineLevel_asserted, hlines, ← lineLevel_asserted]
    exact h.linesAgree p (hperm.mem_iff.1 hp)

/-- An operation over, the invariant holds again if it wrote no kept field, moved no line but its session's own, and
left the counter in its range. -/
theorem State.Inv.finish {s u : State} (h : s.Inv) (hk : Kept s u) (hl : OwnLineOnly s u)
    (hnest : u.sess.nest ≤ s.par.nestMax) (r : Response) : (u.finish r).Inv where
  params := hk.par ▸ h.params
  idle := rfl
  sessionsOk p hp := by
    rw [finish_par, hk.par]
    rcases List.mem_cons.1 hp with rfl | hp
    · obtain ⟨hmax, -⟩ := h.sessionsOk (s.current, s.sess) (List.mem_cons_self ..)
      refine ⟨?_, hnest⟩
      simpa [hk.maxValue, hk.cfg] using hmax
    · exact h.sessionsOk p (List.mem_cons_of_mem _ (hk.parked ▸ hp))
  names := by simpa [State.sessions, hk.current, hk.parked] using h.names
  owners := by simpa [State.sessions, hk.cfg, hk.parked] using h.owners
  linesOnce := hl.once h.linesOnce
  linesAgree p hp := by
    rcases List.mem_cons.1 hp with rfl | hp
    · exact hl.agrees h.lineAgrees
    · have hp : p ∈ s.parked := hk.parked ▸ hp
      rw [lineLevel_asserted, finish_lines, hl.others _ (h.parked_selectId_ne hp), ← lineLevel_asserted]
      exact h.linesAgree p (List.mem_cons_of_mem _ hp)

/-- Every instruction keeps the invariant. -/
theorem exec_inv {i : Instr} {s t : State} (h : s.Inv) (hx : exec i s = .next t) : t.Inv := by
  obtain ⟨-, hroom, rfl⟩ := exec_next hx
  obtain ⟨hline, hnest⟩ := body_ownLineOnly i (s.start i) (start_lineAgrees s i h.lineAgrees)
  obtain ⟨-, hmax⟩ := h.sessionsOk (s.current, s.sess) (List.mem_cons_self ..)
  rw [start_sess] at hnest
  refine h.finish ((start_kept s i).trans (body_kept i _)) ⟨hline.once, hline.agrees, hline.others⟩ ?_ _
  rcases hroom with h0 | h0
  · rw [h0] at hnest
    exact hnest.trans hmax
  · exact hnest.trans h0

end Sys2Proof.Machine

open Sys2Proof Sys2Proof.Machine

/-- Settles O39: a request rearranges the sessions and no more, and the instruction it holds keeps the invariant, since
no body moves a line but its session's own. -/
theorem stepKeepsInvariant : Obligations.StepKeepsInvariant := by
  intro s t h hx
  rcases step_runs hx with rfl | ⟨s1, i, hpar, hseq, hlines, hperm, hx⟩
  · exact h
  · exact exec_inv (h.of_perm hpar hseq hlines hperm) hx

/-- Settles O35: two runs that differ in history and responses append the same. -/
theorem historyAndResponsesUnread : Obligations.HistoryAndResponsesUnread := by
  intro i s t h rs hx
  obtain ⟨r', hr'⟩ := exec_responses hx
  obtain ⟨r, u, _, ⟨evs, hu, rfl⟩, rfl, hx'⟩ :=
    exec_alike (alike_hist s.hist h rs) i (s := s) (s' := { s with hist := h, responses := rs }) rfl rfl rfl
      ⟨[], by simp, by simp [State.start]⟩ hx
  obtain ⟨hresp, -⟩ := List.append_inj' hr' rfl
  exact ⟨evs, r, hu, by rw [finish_responses, hresp], hx'⟩

/-- Settles O36: two runs that differ in the wiper configuration differ in nothing else. -/
theorem wiperConfigUnread : Obligations.WiperConfigUnread := by
  intro i s t w hx
  obtain ⟨r, u, _, rfl, rfl, hx'⟩ := exec_alike (alike_wiperCfg w) i (s := s)
    (s' := { s with sess := { s.sess with cfg := { s.sess.cfg with wiperCfg := w } } }) rfl rfl rfl rfl hx
  exact hx'

/-- Settles O41: a request rearranges the sessions, and no instruction writes what their construction fixed. -/
theorem stepKeepsConfiguration : Obligations.StepKeepsConfiguration := by
  intro s t hx
  rcases step_runs hx with rfl | ⟨s1, i, hpar, -, -, hperm, hx⟩
  · exact ⟨rfl, .refl _⟩
  · exact ⟨(exec_par hx).trans hpar, exec_configuration hx ▸ hperm.map _⟩
end

section
/-! SUPPORT. The statements about the bus (20_memory.md): how far an operation takes the history, and what an absent bus
makes of it. -/

namespace Sys2Proof.Machine

/-! ### How far the history grows -/

@[simp] theorem ran_hist (s : State) (evs : List Event) (e : Env) (d : Nat) (q : Seq) :
    (s.ran evs e d q).hist = s.hist ++ evs := rfl

/-- `t` is `s` with at most four byte exchanges and three other events more in its history (20_memory.md R42). -/
def GrowsWithinBounds (s t : State) : Prop :=
  ∃ evs, t.hist = s.hist ++ evs ∧ exchanges evs ≤ 4 ∧ evs.length ≤ exchanges evs + 3

theorem GrowsWithinBounds.refl (s : State) : GrowsWithinBounds s s := ⟨[], by simp, by decide, by decide⟩

theorem selectLine_grows (s : State) : GrowsWithinBounds s (selectLine s) := by
  by_cases hn : s.sess.nest = 0
  · rw [selectLine_outer s hn]
    exact ⟨[.busMode s.par.busCfg, .assertLine s.sess.cfg.selectId], by simp, by simp [exchanges], by simp⟩
  · rw [selectLine_inner s hn]
    exact GrowsWithinBounds.refl s

theorem deselectLine_grows (s : State) : GrowsWithinBounds s (deselectLine s) := by
  by_cases hn : s.sess.nest = 1
  · rw [deselectLine_outer s hn]
    exact ⟨[.deassertLine s.sess.cfg.selectId], by simp, by simp [exchanges], by simp⟩
  by_cases h0 : s.sess.nest = 0
  · rw [deselectLine_floor s h0]
    exact GrowsWithinBounds.refl s
  · rw [deselectLine_inner s (by omega)]
    exact GrowsWithinBounds.refl s

/-- The exchanges of one operation, framed, stay within the bounds. -/
theorem Sent.grows {s : State} {pairs : List (RegAddr × OpBits)} {xs : List Event} (h : Sent s.par pairs xs)
    (e : Env) (d : Nat) (q : Seq) : GrowsWithinBounds s (s.ran (s.framed xs) e d q) := by
  have hex : exchanges (s.framed xs) = xs.length := by rw [exchanges_framed, exchanges_allXfer h.allXfer]
  exact ⟨s.framed xs, rfl, hex.trans_le h.length_le, hex ▸ length_framed s xs⟩

/-- Every body stays within the bounds. -/
theorem body_grows (i : Instr) (s : State) (h : s.LineAgrees) : GrowsWithinBounds s (bodyOf i s).2 := by
  by_cases hm : i = .maxval
  · subst hm
    exact GrowsWithinBounds.refl s
  by_cases hs : i = .select
  · subst hs
    exact selectLine_grows s
  by_cases hd : i = .deselect
  · subst hd
    exact deselectLine_grows s
  obtain ⟨pairs, -, xs, e, d, q, hsent, hran⟩ := body_sent i s h hm hs hd
  rw [hran]
  exact hsent.grows e d q

/-! ### The absent bus -/

/-- Every reply is one byte that says invalid (20_memory.md R48). -/
def State.BusAbsent (s : State) : Prop := ∃ b, s.env = .constant b ∧ EA4 b

/-- No first reply of an absent bus is valid. -/
theorem State.BusAbsent.reply_invalid {s : State} (hb : s.BusAbsent) {rx : Byte} {rxs : List Byte} {e : Env}
    (hs : s.env.Supplies (rx :: rxs) e) : rx.getLsbD 1 = false := by
  obtain ⟨b, henv, h4⟩ := hb
  rw [henv] at hs
  obtain ⟨hrx, -⟩ := hs
  obtain ⟨rfl, -⟩ := List.cons.inj hrx
  exact h4

/-- `t` has one byte exchange more in its history than `s`. -/
def OneExchange (s t : State) : Prop := ∃ evs, t.hist = s.hist ++ evs ∧ exchanges evs = 1

/-- From `s` an operation came to `t` by one exchange, and `ok` says that it failed. -/
structure FailsOnce (s : State) (ok : Bool) (t : State) : Prop where
  once : OneExchange s t
  failed : ok = false

/-- A draw is no exchange. -/
theorem FailsOnce.drawn {s t : State} {ok : Bool} (h : FailsOnce s ok t) : FailsOnce s false t.drawn :=
  ⟨h.once, rfl⟩

/-- A failed transfer makes one exchange, framed or bare. -/
theorem FailsOnce.of_ran (s : State) (x : Event) (hx : exchanges [x] = 1) (e : Env) (d : Nat) (q : Seq) :
    FailsOnce s false (s.ran (s.framed [x]) e d q) :=
  ⟨⟨s.framed [x], rfl, (exchanges_framed s [x]).trans hx⟩, rfl⟩

section
variable {s : State} (hb : s.BusAbsent) (h : s.LineAgrees)
include hb h

theorem xfer8_failsOnce (addr : Byte) (op : OpBits) : FailsOnce s (xfer8 addr op s).1 (xfer8 addr op s).2 := by
  obtain ⟨rx, e, d, q, hs, hx⟩ := xfer8_spec addr op s h
  rw [hx]
  rw [hb.reply_invalid hs]
  exact .of_ran s _ rfl e d q

theorem xfer16_failsOnce (addr : Byte) (op : OpBits) (data : Word16) :
    FailsOnce s (xfer16 addr op data s).1.1 (xfer16 addr op data s).2 := by
  rcases xfer16_spec addr op data s h with ⟨rx1, rx2, e, d, q, hv, hs, -⟩ | ⟨rx1, v, e, d, q, -, hs, hx⟩
  · rw [hb.reply_invalid hs] at hv
    cases hv
  · rw [hx]
    exact .of_ran s _ rfl e d q

theorem memRead_failsOnce (addr : Byte) : FailsOnce s (memRead addr s).1.1 (memRead addr s).2 :=
  xfer16_failsOnce hb h addr _ _

theorem memWrite_failsOnce (addr : Byte) (v : Word16) : FailsOnce s (memWrite addr v s).1 (memWrite addr v s).2 :=
  xfer16_failsOnce hb h addr _ v

theorem getWiper_failsOnce : FailsOnce s (getWiper s).1.1 (getWiper s).2 := by
  have hrd := memRead_failsOnce hb h s.wiper
  simp only [getWiper, hrd.failed, Bool.false_eq_true, if_false]
  exact hrd.drawn

theorem getTcon_failsOnce (mask : FlagMask) : FailsOnce s (getTcon mask s).1.1 (getTcon mask s).2 := by
  have hrd := memRead_failsOnce hb h (busAddr s.par.addrTcon)
  simp only [getTcon, hrd.failed, Bool.false_eq_true, if_false]
  exact hrd.drawn

theorem getHwShutdown_failsOnce : FailsOnce s (getHwShutdown s).1.1 (getHwShutdown s).2 := by
  have hrd := memRead_failsOnce hb h (busAddr s.par.addrStatus)
  simp only [getHwShutdown, hrd.failed, Bool.false_eq_true, if_false]
  exact hrd.drawn

theorem getShutdown_failsOnce : FailsOnce s (getShutdown s).1.1 (getShutdown s).2 := by
  have hg := getTcon_failsOnce hb h s.par.maskShdn
  simp only [getShutdown, hg.failed, Bool.false_eq_true, if_false]
  exact hg.drawn

/-- A TCON update is over after its refused read (43_tcon_status.md R113). -/
theorem setTcon_failsOnce (mask : FlagMask) (value : Bool) :
    FailsOnce s (setTcon mask value s).1 (setTcon mask value s).2 := by
  rcases setTcon_spec mask value s h with ⟨rx1, e, d, q, -, hs, hx⟩ | ⟨rx1, rx2, rx3, e, d, q, hv, -, hs, -⟩ |
    ⟨rx1, rx2, rx3, rx4, e, d, q, hv, -, hs, -⟩
  · rw [hx]
    exact .of_ran s _ rfl e d q
  · rw [hb.reply_invalid hs] at hv
    cases hv
  · rw [hb.reply_invalid hs] at hv
    cases hv

end

/-- A convenience form (43_tcon_status.md R121) adds no exchange to a failed getter's. -/
theorem convenience_failsOnce {s : State} {g : (Bool × Bool) × State} (h : FailsOnce s g.1.1 g.2) :
    OneExchange s (convenience g).2 := by
  simp only [convenience, h.failed, Bool.false_eq_true, if_false]
  exact h.once

/-- On an absent bus every body that transfers makes one exchange and reports its failure (60_exceptions.md R132,
R134). -/
theorem body_absent_fails (i : Instr) {s : State} (hb : s.BusAbsent) (h : s.LineAgrees) (hd : 1 ≤ depthOf i)
    (hsel : i ≠ .select) : OneExchange s (bodyOf i s).2 ∧ ReportsFailure (bodyOf i s).1 := by
  have hok : ∀ {ok t}, FailsOnce s ok t → OneExchange s t ∧ ok = false := fun hf => ⟨hf.once, hf.failed⟩
  cases i with
  | maxval => exact absurd hd (by decide)
  | deselect => exact absurd hd (by decide)
  | select => exact absurd rfl hsel
  | cmdWrite addr data => exact hok (memWrite_failsOnce hb h addr data)
  | cmdRead addr => exact hok (memRead_failsOnce hb h addr)
  | cmdIncr addr => exact hok (xfer8_failsOnce hb h addr s.par.opInc)
  | cmdDecr addr => exact hok (xfer8_failsOnce hb h addr s.par.opDec)
  | incr => exact hok (xfer8_failsOnce hb h s.wiper s.par.opInc)
  | decr => exact hok (xfer8_failsOnce hb h s.wiper s.par.opDec)
  | set value => exact hok (memWrite_failsOnce hb h s.wiper _)
  | get => exact hok (getWiper_failsOnce hb h)
  | getv =>
    obtain ⟨hone, hfailed⟩ := getWiper_failsOnce hb h
    refine ⟨hone, ?_⟩
    simp only [bodyOf, hfailed, Bool.false_eq_true, if_false]
    rfl
  | setta flag => exact hok (setTcon_failsOnce hb h s.par.maskTermA flag)
  | settb flag => exact hok (setTcon_failsOnce hb h s.par.maskTermB flag)
  | setw flag => exact hok (setTcon_failsOnce hb h s.par.maskWiper flag)
  | setshdn shutdown => exact hok (setTcon_failsOnce hb h s.par.maskShdn (!shutdown))
  | getta => exact hok (getTcon_failsOnce hb h s.par.maskTermA)
  | gettb => exact hok (getTcon_failsOnce hb h s.par.maskTermB)
  | getw => exact hok (getTcon_failsOnce hb h s.par.maskWiper)
  | getshdn => exact hok (getShutdown_failsOnce hb h)
  | gethwshdn => exact hok (getHwShutdown_failsOnce hb h)
  | gettav => exact ⟨convenience_failsOnce (getTcon_failsOnce hb h s.par.maskTermA), trivial⟩
  | gettbv => exact ⟨convenience_failsOnce (getTcon_failsOnce hb h s.par.maskTermB), trivial⟩
  | getwv => exact ⟨convenience_failsOnce (getTcon_failsOnce hb h s.par.maskWiper), trivial⟩
  | getshdnv => exact ⟨convenience_failsOnce (getShutdown_failsOnce hb h), trivial⟩

end Sys2Proof.Machine

open Sys2Proof Sys2Proof.Machine

/-- Settles O32: a body makes at most four exchanges, and the critical section around them adds at most three events. -/
theorem historyGrowsWithinBounds : Obligations.HistoryGrowsWithinBounds := by
  intro i s t h hx
  obtain ⟨-, -, rfl⟩ := exec_next hx
  exact body_grows i (s.start i) (start_lineAgrees s i h)

/-- Settles O42: the first reply is invalid, so every operation ends at its first exchange. -/
theorem absentBusReportsFailure : Obligations.AbsentBusReportsFailure := by
  intro i s t b henv h4 h hd hsel hx
  obtain ⟨-, -, rfl⟩ := exec_next hx
  obtain ⟨⟨evs, hhist, hone⟩, hrep⟩ :=
    body_absent_fails i (s := s.start i) ⟨b, henv, h4⟩ (start_lineAgrees s i h) hd hsel
  exact ⟨evs, _, hhist, congrArg (· ++ _) (body_kept i (s.start i)).responses, hone, hrep⟩
end

section
/-! SUPPORT. The statements about the reference responder (20_memory.md R53 to R56): how it answers each command, and
what a register read, a register write, `SET` and `GET` come to against it. -/

namespace Sys2Proof.Machine

/-! ### The reference responder -/

@[simp] theorem setPhase_phase (r : Rsp) (p : RspPhase) : (r.setPhase p).phase = p := rfl

theorem setPhase_eq_self {r : Rsp} {p : RspPhase} (h : r.phase = p) : r.setPhase p = r := by
  cases h
  rfl

/-- A register written reads back. -/
@[simp] theorem reg_setReg (P : Params) (r : Rsp) (a : RegAddr) (v : Data9) : (r.setReg P a v).reg P a = v := by
  unfold Rsp.setReg Rsp.reg
  split_ifs <;> rfl

/-- A register write is the same before a phase as after it. -/
theorem setReg_setPhase (P : Params) (r : Rsp) (p : RspPhase) (a : RegAddr) (v : Data9) :
    (r.setPhase p).setReg P a v = (r.setReg P a v).setPhase p := by
  unfold Rsp.setReg
  split_ifs <;> rfl

@[simp] theorem setReg_phase (P : Params) (r : Rsp) (a : RegAddr) (v : Data9) :
    (r.setReg P a v).phase = r.phase := by
  unfold Rsp.setReg
  split_ifs <;> rfl

@[simp] theorem setReg_dual (P : Params) (r : Rsp) (a : RegAddr) (v : Data9) : (r.setReg P a v).dual = r.dual := by
  unfold Rsp.setReg
  split_ifs <;> rfl

@[simp] theorem setPhase_setPhase (r : Rsp) (p p' : RspPhase) : (r.setPhase p).setPhase p' = r.setPhase p' := rfl

/-- In the command phase a byte is a command byte. -/
theorem xfer_command (P : Params) {r : Rsp} (tx : Byte) (h : r.phase = .cmd) : r.xfer P tx = r.command P tx := by
  simp only [Rsp.xfer, h]

/-- The distinctness of the four operations (00_scope.md R8), as the responder's branches ask for it. -/
theorem ops_ne_of_ok {P : Params} (h : P.Ok) :
    P.opDec ≠ P.opInc ∧ P.opRead ≠ P.opInc ∧ P.opRead ≠ P.opDec ∧
      P.opWrite ≠ P.opInc ∧ P.opWrite ≠ P.opDec ∧ P.opWrite ≠ P.opRead := by
  obtain ⟨-, hops, -⟩ := h
  simp only [List.nodup_cons, List.mem_cons, List.not_mem_nil, or_false, not_or] at hops
  obtain ⟨⟨hwi, hwd, hwr⟩, ⟨hid, hir⟩, hdr, -⟩ := hops
  exact ⟨Ne.symm hid, Ne.symm hir, Ne.symm hdr, hwi, hwd, hwr⟩

/-- RSP's reply to a read command whose register holds `v` (20_memory.md R55). -/
def readReply (tx : Byte) (v : Data9) : Byte :=
  (tx &&& 0xFC#8) ||| 0x02#8 ||| (BitVec.ofBool (v.getLsbD 8)).setWidth 8

theorem readReply_valid (tx : Byte) (v : Data9) : (readReply tx v).getLsbD 1 = true := by
  simp [readReply]

theorem readReply_low (tx : Byte) (v : Data9) : (readReply tx v).getLsbD 0 = v.getLsbD 8 := by
  simp [readReply]

/-- A reply of the responder with bit 1 forced to 1 is valid. -/
theorem valid_reply (tx : Byte) : (tx ||| 0x02#8).getLsbD 1 = true := by
  simp

/-- A reply of the responder with bit 1 forced to 0 is invalid. -/
theorem invalid_reply (tx : Byte) : (tx &&& 0xFD#8).getLsbD 1 = false := by
  simp

/-- Bit 1 of RSP's reply to a command byte is its legality verdict (EA1; 20_memory.md R55). -/
theorem command_reply_valid (P : Params) (r : Rsp) (tx : Byte) :
    (r.command P tx).1.getLsbD 1 = r.legal P (addrField tx) (opField tx) := by
  unfold Rsp.command
  simp only
  split
  · rename_i hl
    rw [hl]
    exact invalid_reply tx
  rename_i hl
  rw [eq_true_of_ne_false hl]
  split
  · exact valid_reply tx
  split
  · exact valid_reply tx
  split
  · exact readReply_valid tx _
  · exact valid_reply tx

section
variable {P : Params} (hP : P.Ok) (r : Rsp) {tx : Byte} (hl : r.legal P (addrField tx) (opField tx) = true)
include hl

/-- A legal increment (20_memory.md R55). -/
theorem command_inc (ho : opField tx = P.opInc) :
    r.command P tx = (tx ||| 0x02#8,
      if r.reg P (addrField tx) < r.full then
        r.setReg P (addrField tx) (r.reg P (addrField tx) + 1) else r) := by
  rw [ho] at hl
  simp only [Rsp.command, ho, hl, Bool.true_eq_false, if_false, if_true]

include hP

/-- A legal decrement (20_memory.md R55). -/
theorem command_dec (ho : opField tx = P.opDec) :
    r.command P tx = (tx ||| 0x02#8,
      if 0 < r.reg P (addrField tx) then
        r.setReg P (addrField tx) (r.reg P (addrField tx) - 1) else r) := by
  obtain ⟨hdi, -⟩ := ops_ne_of_ok hP
  rw [ho] at hl
  simp only [Rsp.command, ho, hl, Bool.true_eq_false, if_false, hdi, if_true]

/-- A legal read (20_memory.md R55). -/
theorem command_read (ho : opField tx = P.opRead) :
    r.command P tx = (readReply tx (r.reg P (addrField tx)), r.setPhase (.rd (addrField tx))) := by
  obtain ⟨-, hri, hrd, -⟩ := ops_ne_of_ok hP
  rw [ho] at hl
  simp only [Rsp.command, ho, hl, Bool.true_eq_false, if_false, hri, hrd, if_true, readReply]

/-- A legal write (20_memory.md R55). -/
theorem command_write (ho : opField tx = P.opWrite) :
    r.command P tx = (tx ||| 0x02#8, r.setPhase (.wr (addrField tx) (lowBitField tx))) := by
  obtain ⟨-, -, -, hwi, hwd, hwr⟩ := ops_ne_of_ok hP
  rw [ho] at hl
  simp only [Rsp.command, ho, hl, Bool.true_eq_false, if_false, hwi, hwd, hwr]

end

/-- The second byte of a read: the register's low bits, whatever byte is sent (20_memory.md R55). -/
theorem xfer_rd (P : Params) (r : Rsp) (a : RegAddr) (tx : Byte) :
    (r.setPhase (.rd a)).xfer P tx = ((r.reg P a).extractLsb' 0 8, r.setPhase .cmd) := rfl

/-- The second byte of a write stores the nine bits (20_memory.md R55). -/
theorem xfer_wr (P : Params) (r : Rsp) (a : RegAddr) (d8 : Bool) (tx : Byte) :
    (r.setPhase (.wr a d8)).xfer P tx = (0xFF#8, (r.setReg P a (BitVec.ofBool d8 ++ tx)).setPhase .cmd) := by
  simp only [Rsp.xfer, setPhase_phase, setReg_setPhase, setPhase_setPhase]

/-- The nine bits a responder stores are the data field of the two bytes sent. -/
theorem ofBool_lowBitField_append (b1 b2 : Byte) : BitVec.ofBool (lowBitField b1) ++ b2 = dataField b1 b2 := by
  have hlow : b1.extractLsb' 0 1 = BitVec.ofBool (b1.getLsbD 0) := by
    apply eq_of_bits
    intro k hk
    interval_cases k
    simp
  rw [dataField, hlow, lowBitField]

/-- Two reply bytes laid out as EA3 says decode to the register's value (20_memory.md R47). -/
theorem decData_of_EA3 {v : Data9} {rx1 rx2 : Byte} (h : EA3 v rx1 rx2) : decData rx1 rx2 = v := by
  obtain ⟨hlow, rfl⟩ := h
  rw [decData_eq, ← ofBool_lowBitField_append, lowBitField, hlow]
  apply eq_of_bits
  intro k hk
  rw [BitVec.getLsbD_append]
  interval_cases k <;> simp

/-- RSP's two replies to a read are laid out as EA3 says. -/
theorem readReply_EA3 (tx : Byte) (v : Data9) : EA3 v (readReply tx v) (v.extractLsb' 0 8) :=
  ⟨readReply_low tx v, rfl⟩

/-! ### The responder as the environment -/

/-- In the command phase the responder has no command to drop at an `Assert` or a `Deassert`. -/
theorem notice_responder {r : Rsp} (hcmd : r.phase = .cmd) (e : Event) :
    (Env.responder r).notice e = .responder r := by
  cases e with
  | busMode c => rfl
  | assertLine id => exact congrArg Env.responder (setPhase_eq_self hcmd)
  | deassertLine id => exact congrArg Env.responder (setPhase_eq_self hcmd)
  | xfer tx rx => rfl

theorem entered_responder {s : State} {r : Rsp} (henv : s.env = .responder r) (hcmd : r.phase = .cmd) :
    s.entered = .responder r := by
  simp only [State.entered, henv, notice_responder hcmd, ite_self]

theorem released_responder (s : State) {r : Rsp} (hcmd : r.phase = .cmd) :
    s.released (.responder r) = .responder r := by
  simp only [State.released, notice_responder hcmd, ite_self]

/-- The register a long command to it addresses. -/
theorem addrField_busAddr (a : RegAddr) (op : Byte) (d : Word16) :
    addrField (firstByte (enc16 (busAddr a) op d)) = a := by
  rw [addrField_first, busAddr, addr_extract]

/-- The responder implements its wipers for every operation (20_memory.md R53, R54). -/
theorem legal_wiperAddr (P : Params) (r : Rsp) (unit : UnitIndex) (op : OpBits)
    (hdual : unit = .unit1 → r.dual = true) : r.legal P (wiperAddr P unit) op = true := by
  cases unit with
  | unit0 => simp [Rsp.legal, Rsp.implements, wiperAddr]
  | unit1 => simp [Rsp.legal, Rsp.implements, wiperAddr, hdual rfl]

/-- The responder once `SET value` of `s` has written its wiper (42_wiper.md R105). -/
def State.responderSet (s : State) (r : Rsp) (value : Word16) : Rsp :=
  r.setReg s.par (wiperAddr s.par s.sess.cfg.unit) ((clampValue value s.sess.maxValue).setWidth 9)

section
variable {s : State} {r : Rsp} (hP : s.par.Ok) (h : s.LineAgrees) (henv : s.env = .responder r) (hcmd : r.phase = .cmd)
include hP h henv hcmd

/-- A legal write to the responder stores the nine data bits (20_memory.md R37, R55). -/
theorem memWrite_responder {a : RegAddr} (hl : r.legal s.par a s.par.opWrite = true) (v : Word16) :
    ∃ evs d q, memWrite (busAddr a) v s =
      (true, s.ran evs (.responder (r.setReg s.par a (v.setWidth 9))) d q) := by
  have hw := command_write hP r (tx := firstByte (enc16 (busAddr a) (s.par.opWrite.setWidth 8) v))
    (by rw [addrField_busAddr, opField_first]; exact hl) (opField_first ..)
  rw [addrField_busAddr] at hw
  obtain ⟨q, hx⟩ := xfer16_valid (busAddr a) s.par.opWrite v s h
    (by rw [entered_responder henv hcmd, Env.answer, xfer_command _ _ hcmd, hw])
    (by rw [Env.answer, xfer_wr, ofBool_lowBitField_append, dataField_enc16]) (valid_reply _)
  have hcmd' : (r.setReg s.par a (v.setWidth 9)).phase = .cmd := (setReg_phase ..).trans hcmd
  rw [setPhase_eq_self hcmd', released_responder s hcmd'] at hx
  exact ⟨_, _, q, by rw [memWrite, hx]⟩

/-- A legal read from the responder returns the register and changes nothing (20_memory.md R36, R55). -/
theorem memRead_responder {a : RegAddr} (hl : r.legal s.par a s.par.opRead = true) :
    ∃ evs d q, memRead (busAddr a) s = ((true, r.reg s.par a), s.ran evs (.responder r) d q) := by
  have hr := command_read hP r (tx := firstByte (enc16 (busAddr a) (s.par.opRead.setWidth 8) readDummy))
    (by rw [addrField_busAddr, opField_first]; exact hl) (opField_first ..)
  rw [addrField_busAddr] at hr
  obtain ⟨q, hx⟩ := xfer16_valid (busAddr a) s.par.opRead readDummy s h
    (by rw [entered_responder henv hcmd, Env.answer, xfer_command _ _ hcmd, hr])
    (by rw [Env.answer, xfer_rd]) (readReply_valid _ _)
  rw [setPhase_eq_self hcmd, released_responder s hcmd, decData_of_EA3 (readReply_EA3 _ _)] at hx
  exact ⟨_, _, q, hx⟩

/-- `SET` on the responder's wiper stores the clamped value's nine bits (42_wiper.md R105). -/
theorem exec_set_responder (hready : s.Ready 1) (hdual : s.sess.cfg.unit = .unit1 → r.dual = true) (value : Word16) :
    ∃ evs d, exec (.set value) s = .next (s.after evs (.responder (s.responderSet r value)) d (.ok true)) := by
  obtain ⟨evs, d, q, hx⟩ := memWrite_responder (s := s.start (.set value)) hP h henv hcmd
    (legal_wiperAddr s.par r s.sess.cfg.unit _ hdual) (((clampValue value s.sess.maxValue).setWidth 9).setWidth 16)
  refine ⟨evs, d, ?_⟩
  rw [exec_ready _ _ hready, bodyOf, setWiper, State.wiper, start_par, start_sess, hx, finish_ran (hq := hready.1),
    State.responderSet, start_par, BitVec.setWidth_setWidth_of_le _ (by decide), BitVec.setWidth_eq]

/-- `GET` from the responder's wiper returns it (42_wiper.md R106). -/
theorem exec_get_responder (hready : s.Ready 1) (hdual : s.sess.cfg.unit = .unit1 → r.dual = true) :
    ∃ evs d, exec .get s = .next (s.after evs (.responder r) d
      (.okValue true ((r.reg s.par (wiperAddr s.par s.sess.cfg.unit)).setWidth 16))) := by
  obtain ⟨evs, d, q, hx⟩ := memRead_responder (s := s.start .get) hP h henv hcmd
    (legal_wiperAddr s.par r s.sess.cfg.unit _ hdual)
  have hget : getWiper (s.start .get) = ((true, (r.reg s.par (wiperAddr s.par s.sess.cfg.unit)).setWidth 16),
      (s.start .get).ran evs (.responder r) d q) := by
    simp only [getWiper, State.wiper, start_par, start_sess, hx, if_true]
  exact ⟨evs, d, by rw [exec_ready _ _ hready, bodyOf, hget, finish_ran (hq := hready.1)]⟩

end

/-! ### `SET` and then `GET` -/

/-- A run goes on after its first operation. -/
theorem runAll_cons {i : Instr} {s t : State} (rest : List Instr) (h : exec i s = .next t) :
    runAll (i :: rest) s = runAll rest t := by
  simp only [runAll, h]

/-- `max_value` is at most 256 (10_state.md R18). -/
theorem maxValueOf_le (cfg : SessionCfg) : (maxValueOf cfg).toNat ≤ 256 := by
  cases hres : cfg.resolution <;> cases hcfg : cfg.wiperCfg <;>
    simp [maxValueOf, resolutionSteps, hres, hcfg]

theorem clampValue_le (value maxValue : Word16) : (clampValue value maxValue).toNat ≤ maxValue.toNat := by
  unfold clampValue
  split
  · assumption
  · exact Nat.le_refl _

/-- The clamped value fits the nine bits of a register (42_wiper.md R105). -/
theorem setWidth_clampValue (value : Word16) (cfg : SessionCfg) :
    ((clampValue value (maxValueOf cfg)).setWidth 9).setWidth 16 = clampValue value (maxValueOf cfg) := by
  have hle := (clampValue_le value (maxValueOf cfg)).trans (maxValueOf_le cfg)
  apply BitVec.eq_of_toNat_eq
  rw [BitVec.toNat_setWidth, BitVec.toNat_setWidth]
  omega

end Sys2Proof.Machine

open Sys2Proof Sys2Proof.Machine

/-- Settles O44: the verdict is in every branch of the reply, and each legal command has its equation. -/
theorem responderMeetsPremises : Obligations.ResponderMeetsPremises := by
  intro P r tx hP hcmd
  rw [xfer_command P tx hcmd]
  refine ⟨command_reply_valid P r tx, fun ho hl d d' => ?_, fun ho hl hfull => ?_, fun ho hl hzero => ?_⟩
  · rw [command_read hP r hl ho, xfer_rd, xfer_rd]
    exact ⟨rfl, readReply_EA3 tx _⟩
  · rw [command_inc r hl ho, hfull, if_neg (BitVec.lt_irrefl _)]
    exact ⟨valid_reply tx, rfl⟩
  · rw [command_dec hP r hl ho, hzero, if_neg (BitVec.lt_irrefl _)]
    exact ⟨valid_reply tx, rfl⟩

/-- Settles O45: `SET` leaves the clamped value in the responder's wiper, and `GET` reads the wiper back. -/
theorem responderWiperRoundTrip : Obligations.ResponderWiperRoundTrip := by
  intro s r value hinv hready henv hcmd hdual
  obtain ⟨hmax, -⟩ := hinv.sessionsOk (s.current, s.sess) (List.mem_cons_self ..)
  obtain ⟨evs, d, hset⟩ := exec_set_responder hinv.params hinv.lineAgrees henv hcmd hready hdual value
  obtain ⟨evs', d', hget⟩ := exec_get_responder
    (s := s.after evs (.responder (s.responderSet r value)) d (.ok true)) hinv.params hinv.lineAgrees rfl
    ((setReg_phase ..).trans hcmd) hready fun hunit => (setReg_dual ..).trans (hdual hunit)
  refine ⟨_, (runAll_cons _ hset).trans (runAll_cons [] hget), ?_⟩
  simp only [State.responderSet, after_responses, after_par, after_sess, reg_setReg, List.append_assoc, List.cons_append,
    List.nil_append]
  rw [hmax, setWidth_clampValue]
  rfl
end

section
/-! SUPPORT. The statement about the encoding (30_encoding.md): the commands an operation sends are among the eleven
pairs of R66. -/

namespace Sys2Proof.Machine

/-! ### The pairs of R66 -/

/-- Either unit's wiper takes all four operations. -/
theorem wiper_mem_emittedPairs (P : Params) (unit : UnitIndex) {op : OpBits}
    (h : op ∈ [P.opWrite, P.opRead, P.opInc, P.opDec]) : (wiperAddr P unit, op) ∈ emittedPairs P := by
  have hpairs : (wiperAddr P unit, op) ∈ [P.opWrite, P.opRead, P.opInc, P.opDec].map (wiperAddr P unit, ·) :=
    List.mem_map_of_mem h
  cases unit with
  | unit0 => exact List.mem_append_left _ hpairs
  | unit1 =>
    exact List.mem_append_right ([P.opWrite, P.opRead, P.opInc, P.opDec].map (P.addrWiper0, ·))
      (List.mem_append_left _ hpairs)

/-- A TCON update reads and writes TCON. -/
theorem tconUpdate_subset_emittedPairs (P : Params) :
    [(P.addrTcon, P.opRead), (P.addrTcon, P.opWrite)] ⊆ emittedPairs P := by
  simp [emittedPairs]

theorem tconRead_mem_emittedPairs (P : Params) : (P.addrTcon, P.opRead) ∈ emittedPairs P :=
  tconUpdate_subset_emittedPairs P (List.mem_cons_self ..)

theorem statusRead_mem_emittedPairs (P : Params) : (P.addrStatus, P.opRead) ∈ emittedPairs P := by
  simp [emittedPairs]

/-- The commands of every host operation are among the eleven pairs. -/
theorem pairsOf_subset_emittedPairs {i : Instr} {s : State} {pairs : List (RegAddr × OpBits)}
    (hi : isHostOp i = true) (h : pairsOf s i pairs) : pairs ⊆ emittedPairs s.par := by
  have hone : ∀ {p}, pairs = [p] → p ∈ emittedPairs s.par → pairs ⊆ emittedPairs s.par := by
    rintro p rfl hp
    simpa using hp
  have hwiper : ∀ {op}, pairs = [(wiperAddr s.par s.sess.cfg.unit, op)] →
      op ∈ [s.par.opWrite, s.par.opRead, s.par.opInc, s.par.opDec] → pairs ⊆ emittedPairs s.par :=
    fun hp hop => hone hp (wiper_mem_emittedPairs s.par s.sess.cfg.unit hop)
  have hupdate : pairs <+: [(s.par.addrTcon, s.par.opRead), (s.par.addrTcon, s.par.opWrite)] →
      pairs ⊆ emittedPairs s.par :=
    fun hp => List.Subset.trans hp.subset (tconUpdate_subset_emittedPairs s.par)
  cases i with
  | cmdWrite | cmdRead | cmdIncr | cmdDecr => cases hi
  | maxval | select | deselect => exact h.elim
  | incr | decr | set | get | getv => exact hwiper h (by simp)
  | setta | settb | setw | setshdn => exact hupdate h
  | getta | gettav | gettb | gettbv | getw | getwv | getshdn | getshdnv =>
    exact hone h (tconRead_mem_emittedPairs s.par)
  | gethwshdn => exact hone h (statusRead_mem_emittedPairs s.par)

/-! ### The commands of an operation -/

/-- From `s` to `t` the history grew by events whose commands are `pairs`. -/
def SendsCommands (s t : State) (pairs : List (RegAddr × OpBits)) : Prop :=
  ∃ evs, t.hist = s.hist ++ evs ∧ commandsOf s.par false evs = pairs

theorem SendsCommands.refl (s : State) : SendsCommands s s [] := ⟨[], (List.append_nil _).symm, rfl⟩

/-- `SELECT` sends no command (41_select_transfer.md R91). -/
theorem selectLine_sendsCommands (s : State) : SendsCommands s (selectLine s) [] := by
  by_cases hn : s.sess.nest = 0
  · rw [selectLine_outer s hn]
    exact ⟨[.busMode s.par.busCfg, .assertLine s.sess.cfg.selectId], by simp, rfl⟩
  · rw [selectLine_inner s hn]
    exact SendsCommands.refl s

/-- `DESELECT` sends no command (41_select_transfer.md R92). -/
theorem deselectLine_sendsCommands (s : State) : SendsCommands s (deselectLine s) [] := by
  by_cases hn : s.sess.nest = 1
  · rw [deselectLine_outer s hn]
    exact ⟨[.deassertLine s.sess.cfg.selectId], by simp, rfl⟩
  by_cases h0 : s.sess.nest = 0
  · rw [deselectLine_floor s h0]
    exact SendsCommands.refl s
  · rw [deselectLine_inner s (by omega)]
    exact SendsCommands.refl s

/-- Exchanges that were sent hold their commands, framed or bare. -/
theorem Sent.sendsCommands {s : State} {pairs : List (RegAddr × OpBits)} {xs : List Event} (h : Sent s.par pairs xs)
    (e : Env) (d : Nat) (q : Seq) : SendsCommands s (s.ran (s.framed xs) e d q) pairs :=
  ⟨s.framed xs, rfl, (commandsOf_framed s xs).trans h.commands⟩

/-- Every host operation's body sends commands of the eleven pairs only. -/
theorem body_sendsCommands (i : Instr) (s : State) (hi : isHostOp i = true) (h : s.LineAgrees) :
    ∃ pairs, SendsCommands s (bodyOf i s).2 pairs ∧ pairs ⊆ emittedPairs s.par := by
  by_cases hm : i = .maxval
  · subst hm
    exact ⟨[], SendsCommands.refl s, List.nil_subset _⟩
  by_cases hs : i = .select
  · subst hs
    exact ⟨[], selectLine_sendsCommands s, List.nil_subset _⟩
  by_cases hd : i = .deselect
  · subst hd
    exact ⟨[], deselectLine_sendsCommands s, List.nil_subset _⟩
  obtain ⟨pairs, hpairs, xs, e, d, q, hsent, hran⟩ := body_sent i s h hm hs hd
  rw [hran]
  exact ⟨pairs, hsent.sendsCommands e d q, pairsOf_subset_emittedPairs hi hpairs⟩

end Sys2Proof.Machine

open Sys2Proof Sys2Proof.Machine

/-- Settles O33: the commands of a body are those R66 gives its operation, and `SELECT`, `DESELECT` and `MAXVAL` send
none. -/
theorem onlyElevenPairsEmitted : Obligations.OnlyElevenPairsEmitted := by
  intro i s t hi h hx
  obtain ⟨-, -, rfl⟩ := exec_next hx
  obtain ⟨pairs, ⟨evs, hhist, rfl⟩, hsub⟩ := body_sendsCommands i (s.start i) hi (start_lineAgrees s i h)
  exact ⟨evs, hhist, hsub⟩
end

section
/-! SUPPORT. The statements about the codec (40_codec.md): the layout of the command words bit by bit, the decoding of a
reply, and the four wire commands run by themselves. -/

namespace Sys2Proof.Machine

/-! ### The command words -/

/-- `ENC8` is not 0: its probe bit is set (40_codec.md R81). -/
theorem enc8_ne_zero (a op : Byte) : enc8 a op ≠ 0#8 := by
  intro h
  have hprobe := enc8_probe a op
  rw [h] at hprobe
  exact absurd hprobe (by decide)

/-- The nine low bits of `ENC16` are the data's (40_codec.md R82). -/
theorem enc16_getLsbD_low (a op : Byte) (d : Word16) {k : Nat} (hk : k < 9) :
    (enc16 a op d).getLsbD k = d.getLsbD k := by
  interval_cases k <;> simp [enc16, enc8, addressMask, opcodeMask, validityProbeBit, dataMask]

/-- The seven high bits of `ENC16` are those of `ENC8` (40_codec.md R82). -/
theorem enc16_getLsbD_high (a op : Byte) (d : Word16) {k : Nat} (h1 : 1 ≤ k) (h8 : k < 8) :
    (enc16 a op d).getLsbD (8 + k) = (enc8 a op).getLsbD k := by
  interval_cases k <;> simp [enc16, dataMask]

/-- A field of `ENC16` below bit 9 is that field of the data. -/
theorem enc16_field_low (a op : Byte) (d : Word16) {i n : Nat} (h : i + n ≤ 9) :
    (enc16 a op d).extractLsb' i n = d.extractLsb' i n := by
  apply eq_of_bits
  intro k hk
  rw [BitVec.getLsbD_extractLsb', BitVec.getLsbD_extractLsb', enc16_getLsbD_low a op d (by omega)]

/-- A field of `ENC16` above bit 8 is that field of `ENC8`, eight bits lower. -/
theorem enc16_field_high (a op : Byte) (d : Word16) {i n : Nat} (h1 : 1 ≤ i) (h8 : i + n ≤ 8) :
    (enc16 a op d).extractLsb' (8 + i) n = (enc8 a op).extractLsb' i n := by
  apply eq_of_bits
  intro k hk
  rw [BitVec.getLsbD_extractLsb', BitVec.getLsbD_extractLsb', Nat.add_assoc,
    enc16_getLsbD_high a op d (by omega) (by omega)]

/-- A long word's first byte is `ENC8` with `data[8]` at bit 0, which `ENC8` leaves clear (40_codec.md R82). -/
theorem firstByte_eq (a op : Byte) (d : Word16) :
    firstByte (enc16 a op d) = enc8 a op ||| (d.extractLsb' 8 1).setWidth 8 := by
  apply eq_of_bits
  intro k hk
  rw [BitVec.getLsbD_or, BitVec.getLsbD_setWidth, BitVec.getLsbD_extractLsb']
  cases k with
  | zero =>
    rw [firstByte_low, enc8_low]
    simp
  | succ k => simp [firstByte, hk, enc16_getLsbD_high a op d (Nat.le_add_left 1 k) hk]

/-! ### The reply -/

/-- `DECDATA`'s bit 8 is bit 0 of the first byte (40_codec.md R84). -/
theorem decData_high (b1 b2 : Byte) : (decData b1 b2).getLsbD 8 = b1.getLsbD 0 := by
  simp [decData, dataHighBit]

/-- `DECDATA`'s low byte is the second byte (40_codec.md R84). -/
theorem decData_low (b1 b2 : Byte) : (decData b1 b2).extractLsb' 0 8 = b2 := by
  rw [decData_eq, dataField, BitVec.extractLsb'_append_eq_right]

/-! ### A wire command, whole -/

/-- A body that runs from the started state leaves what `after` says, finished. -/
theorem exec_of_body_ran {i : Instr} {s : State} (h : s.Ready (depthOf i)) {r : Response} {evs : List Event} {e : Env}
    {d : Nat} {q : Seq} (hx : bodyOf i (s.start i) = (r, (s.start i).ran evs e d q)) :
    exec i s = .next (s.after evs e d r) := by
  rw [exec_ready i s h, hx, finish_ran (hq := h.1)]

/-- An instruction whose body is one short transfer (41_select_transfer.md R95), whole. -/
theorem exec_short {i : Instr} {s : State} (h : s.Ready (depthOf i)) (hline : s.LineAgrees) (addr : Byte) (op : OpBits)
    (hbody : bodyOf i (s.start i) = (.ok (xfer8 addr op (s.start i)).1, (xfer8 addr op (s.start i)).2)) :
    ∃ rx e d, s.env.Supplies [rx] e ∧
      exec i s = .next (s.after (s.framed [.xfer (enc8 addr (op.setWidth 8)) rx]) e d (.ok (rx.getLsbD 1))) := by
  obtain ⟨rx, e, d, q, hs, hx⟩ := xfer8_spec addr op (s.start i) hline
  exact ⟨rx, e, d, hs, exec_of_body_ran h (by rw [hbody, hx, start_framed])⟩

end Sys2Proof.Machine

open Sys2Proof Sys2Proof.Machine

/-- Settles O25: the body of either command is one short transfer. -/
theorem wireShortCommandResult : Obligations.WireShortCommandResult := fun s addr h hline =>
  ⟨exec_short (i := .cmdIncr addr) h hline addr s.par.opInc rfl,
    exec_short (i := .cmdDecr addr) h hline addr s.par.opDec rfl⟩

/-- Settles O26: the body is one register write, whose first reply is valid or not. -/
theorem wireWriteResult : Obligations.WireWriteResult := by
  intro s addr data h hline
  rcases memWrite_spec addr data (s.start (.cmdWrite addr data)) hline with
    ⟨rx1, rx2, e, d, q, hv, hs, hx⟩ | ⟨rx1, e, d, q, hv, hs, hx⟩
  · exact .inl ⟨rx1, rx2, e, d, hv, hs, exec_of_body_ran h (by rw [bodyOf, hx]; rfl)⟩
  · exact .inr ⟨rx1, e, d, hv, hs, exec_of_body_ran h (by rw [bodyOf, hx]; rfl)⟩

/-- Settles O27: the body is one register read, whose first reply is valid or not. -/
theorem wireReadResult : Obligations.WireReadResult := by
  intro s addr h hline
  rcases memRead_spec addr (s.start (.cmdRead addr)) hline with
    ⟨rx1, rx2, e, d, q, hv, hs, hx⟩ | ⟨rx1, v, e, d, q, hv, hs, hx⟩
  · exact .inl ⟨rx1, rx2, e, d, hv, hs, exec_of_body_ran h (by rw [bodyOf, hx]; rfl)⟩
  · exact .inr ⟨rx1, e, d, v, hv, hs, exec_of_body_ran h (by rw [bodyOf, hx]; rfl)⟩

/-- Settles O2: the fields of `ENC8`, and those of `ENC16` as fields of `ENC8` and of the data. -/
theorem commandWordLayout : Obligations.CommandWordLayout := by
  refine ⟨fun a op => ⟨rfl, enc8_addr a op, enc8_op a op, enc8_probe a op, enc8_low a op, enc8_ne_zero a op⟩,
    fun a op d => ⟨rfl, ?_, ?_, ?_, enc16_getLsbD_low a op d (by decide), enc16_field_low a op d (by decide),
      firstByte_eq a op d, secondByte_eq a op d⟩⟩
  · exact (enc16_field_high a op d (i := 4) (by decide) (by decide)).trans (enc8_addr a op)
  · exact (enc16_field_high a op d (i := 2) (by decide) (by decide)).trans (enc8_op a op)
  · exact (enc16_getLsbD_high a op d (k := 1) (by decide) (by decide)).trans (enc8_probe a op)

/-- Settles O3: a 9-bit value is the data of the reference responder's reply to a read of it. -/
theorem replyDecoding : Obligations.ReplyDecoding := by
  refine ⟨fun b => by rw [isValid_eq], fun b1 b2 => ⟨decData_high b1 b2, decData_low b1 b2⟩, fun d => ?_⟩
  exact ⟨_, _, decData_of_EA3 (readReply_EA3 0#8 d)⟩
end

section
/-! SUPPORT. The statements about the critical section (41_select_transfer.md): what `SELECT` and `DESELECT` do, what
every other operation leaves alone, and the framing of the bus that every step keeps. -/

namespace Sys2Proof.Machine

/-! ### The level of a line -/

/-- A line has one level in two states when both list it or neither does. -/
theorem lineLevel_eq_iff {s t : State} {id : SelectId} :
    t.lineLevel id = s.lineLevel id ↔ (id ∈ t.lines ↔ id ∈ s.lines) := by
  rw [← lineLevel_asserted, ← lineLevel_asserted]
  cases t.lineLevel id <;> cases s.lineLevel id <;> decide

theorem lineLevel_deasserted (s : State) (id : SelectId) : s.lineLevel id = .deasserted ↔ id ∉ s.lines := by
  rw [← lineLevel_asserted]
  cases s.lineLevel id <;> decide

theorem emit_assert_cs (s : State) : (s.emit (.assertLine s.sess.cfg.selectId)).cs = .asserted :=
  (lineLevel_asserted _ _).2 ((mem_linesAfter_assert _ _ _).2 (.inl rfl))

theorem emit_deassert_cs (s : State) : (s.emit (.deassertLine s.sess.cfg.selectId)).cs = .deasserted :=
  (lineLevel_deasserted _ _).2 fun h => ((mem_linesAfter_deassert _ _ _).1 h).2 rfl

/-! ### `SELECT` and `DESELECT` -/

theorem Env.Supplies.nil (e : Env) : e.Supplies [] e := by
  cases e with
  | oracle script => exact ⟨List.take_nil, rfl⟩
  | constant rx => exact ⟨rfl, rfl⟩
  | responder r => exact ⟨r, rfl⟩

/-- `SELECT` takes no answer of the environment. -/
theorem selectLine_supplies (s : State) : s.env.Supplies [] (selectLine s).env := by
  by_cases hn : s.sess.nest = 0
  · rw [selectLine_outer s hn]
    exact ((Env.Supplies.nil s.env).notice (.busMode s.par.busCfg)).notice (.assertLine s.sess.cfg.selectId)
  · rw [selectLine_inner s hn]
    exact .nil s.env

/-- `DESELECT` of a session not selected exactly once changes the counter alone (41_select_transfer.md R92). -/
theorem deselectLine_counts (s : State) (h : s.sess.nest ≠ 1) : deselectLine s = s.setNest (s.sess.nest - 1) := by
  by_cases h0 : s.sess.nest = 0
  · rw [deselectLine_floor s h0, h0, State.setNest, Nat.zero_sub, ← h0]
  · exact deselectLine_inner s (by omega)

/-- `DESELECT` takes no answer of the environment. -/
theorem deselectLine_supplies (s : State) : s.env.Supplies [] (deselectLine s).env := by
  by_cases hn : s.sess.nest = 1
  · rw [deselectLine_outer s hn]
    exact (Env.Supplies.nil s.env).notice (.deassertLine s.sess.cfg.selectId)
  · rw [deselectLine_counts s hn]
    exact .nil s.env

theorem deselectLine_draws (s : State) : (deselectLine s).draws = s.draws := by
  by_cases hn : s.sess.nest = 1
  · rw [deselectLine_outer s hn]
    rfl
  · rw [deselectLine_counts s hn]
    rfl

/-- A body that writes no kept field, moves no line but its session's own, draws nothing and takes no answer leaves
alone what `SELECT` and `DESELECT` must. -/
theorem State.SameElsewhere.of_body {i : Instr} {s u : State} (hk : Kept (s.start i) u) (hl : OwnLineOnly (s.start i) u)
    (hd : u.draws = s.draws) (he : s.env.Supplies [] u.env) : s.SameElsewhere (u.finish .none) where
  par := hk.par
  current := hk.current
  cfg := hk.cfg
  maxValue := hk.maxValue
  parked := hk.parked
  pending := hk.pending
  draws := hd
  seq := rfl
  responses := by rw [finish_responses, hk.responses, start_responses]
  environment := he
  otherLines id hid := lineLevel_eq_iff.2 (hl.others id hid)

theorem selectLine_sameElsewhere (s : State) (i : Instr) :
    s.SameElsewhere ((selectLine (s.start i)).finish .none) :=
  .of_body (selectLine_kept _) (selectLine_ownLineOnly _) (selectLine_draws _) (selectLine_supplies (s.start i))

theorem deselectLine_sameElsewhere (s : State) (i : Instr) :
    s.SameElsewhere ((deselectLine (s.start i)).finish .none) :=
  .of_body (deselectLine_kept _) (deselectLine_ownLineOnly _) (deselectLine_draws _) (deselectLine_supplies (s.start i))

/-- An operation whose nested `SELECT`s would pass `NEST_MAX` is refused (60_exceptions.md R143). -/
theorem exec_nestOverflow {i : Instr} {s : State} (hidle : s.seq = .idle) (hd : depthOf i ≠ 0)
    (h : s.par.nestMax < s.sess.nest + depthOf i) : exec i s = .refused .nestOverflow := by
  have hroom : s.hasRoom (depthOf i) = false := by
    rw [State.hasRoom, beq_false_of_ne hd, Bool.false_or, ← Bool.not_eq_true, Nat.ble_eq, Nat.not_le]
    exact h
  simp [exec_eq_perform, perform, hidle, Seq.isIdle, hroom]

/-- A started operation that did nothing, finished. -/
theorem finish_start (s : State) (i : Instr) (r : Response) (hidle : s.seq = .idle) :
    (s.start i).finish r = s.after [] s.env s.draws r := by
  simp [State.start, State.finish, State.after, hidle]

/-! ### The framing of the bus -/

theorem busPhaseFrom_append (c : BusCfg) (p : BusPhase) (xs ys : List Event) :
    busPhaseFrom c p (xs ++ ys) = (busPhaseFrom c p xs).bind fun q => busPhaseFrom c q ys := by
  induction xs generalizing p with
  | nil => rfl
  | cons e xs ih =>
    rw [List.cons_append, busPhaseFrom, busPhaseFrom]
    cases p.next c e with
    | none => rfl
    | some q => exact ih q

/-- Exchanges leave an asserted line asserted (41_select_transfer.md R93). -/
theorem busPhaseFrom_allXfer (c : BusCfg) (id : SelectId) {xs : List Event} (h : AllXfer xs) :
    busPhaseFrom c (.held id) xs = some (.held id) := by
  induction xs with
  | nil => rfl
  | cons e xs ih =>
    obtain ⟨tx, rx, rfl⟩ := h e (List.mem_cons_self ..)
    exact ih fun e he => h e (List.mem_cons_of_mem _ he)

/-- Where the bus stands as the current session's counter says: `WellFramed` is that the history ends there. -/
def State.busPhase (s : State) : BusPhase := if s.sess.nest = 0 then .free else .held s.sess.cfg.selectId

theorem wellFramed_iff (s : State) : s.WellFramed ↔ busPhaseFrom s.par.busCfg .free s.hist = some s.busPhase := .rfl

/-- The events from `s` to `t` are allowed on the bus as `s` leaves it, and take it where `t`'s counter says. -/
def FramedRun (s t : State) : Prop :=
  ∃ evs, t.hist = s.hist ++ evs ∧ busPhaseFrom s.par.busCfg s.busPhase evs = some t.busPhase

theorem FramedRun.wellFramed {s t : State} (h : FramedRun s t) (hpar : t.par = s.par) (hs : s.WellFramed) :
    t.WellFramed := by
  obtain ⟨evs, hhist, hphase⟩ := h
  rw [wellFramed_iff] at hs ⊢
  rw [hpar, hhist, busPhaseFrom_append, hs, Option.bind_some, hphase]

/-- A change that adds no event and leaves the bus where it stood is a framed run of none. -/
theorem FramedRun.of_silent {s t : State} (hhist : t.hist = s.hist) (hphase : t.busPhase = s.busPhase) :
    FramedRun s t :=
  ⟨[], by rw [hhist, List.append_nil], by rw [hphase, busPhaseFrom]⟩

/-- `SELECT` configures the bus and asserts the line only where none is asserted (41_select_transfer.md R93, N2). -/
theorem selectLine_framedRun (s : State) : FramedRun s (selectLine s) := by
  by_cases hn : s.sess.nest = 0
  · rw [selectLine_outer s hn]
    exact ⟨[.busMode s.par.busCfg, .assertLine s.sess.cfg.selectId], by simp,
      by simp [State.busPhase, hn, busPhaseFrom, BusPhase.next]⟩
  · rw [selectLine_inner s hn]
    exact .of_silent rfl (by simp [State.busPhase, hn])

/-- `DESELECT` deasserts only the line that is asserted (41_select_transfer.md R93, N2). -/
theorem deselectLine_framedRun (s : State) : FramedRun s (deselectLine s) := by
  by_cases hn : s.sess.nest = 1
  · rw [deselectLine_outer s hn]
    exact ⟨[.deassertLine s.sess.cfg.selectId], rfl, by simp [State.busPhase, hn, busPhaseFrom, BusPhase.next]⟩
  · rw [deselectLine_counts s hn]
    have hzero : s.sess.nest - 1 = 0 ↔ s.sess.nest = 0 := by omega
    exact .of_silent rfl (by simp only [State.busPhase, setNest_sess, hzero])

/-- Framed exchanges are allowed in any state, and leave the bus as they found it (41_select_transfer.md R97). -/
theorem framed_framedRun (s : State) {xs : List Event} (h : AllXfer xs) (e : Env) (d : Nat) (q : Seq) :
    FramedRun s (s.ran (s.framed xs) e d q) := by
  refine ⟨s.framed xs, rfl, ?_⟩
  by_cases hn : s.sess.nest = 0
  · simp [State.framed, State.busPhase, hn, busPhaseFrom, BusPhase.next, busPhaseFrom_append,
      busPhaseFrom_allXfer _ _ h]
  · simp [State.framed, State.busPhase, hn, busPhaseFrom_allXfer _ _ h]

/-- Every body is a framed run. -/
theorem body_framedRun (i : Instr) (s : State) (h : s.LineAgrees) : FramedRun s (bodyOf i s).2 := by
  by_cases hm : i = .maxval
  · subst hm
    exact .of_silent rfl rfl
  by_cases hs : i = .select
  · subst hs
    exact selectLine_framedRun s
  by_cases hd : i = .deselect
  · subst hd
    exact deselectLine_framedRun s
  obtain ⟨pairs, -, xs, e, d, q, hsent, hran⟩ := body_sent i s h hm hs hd
  rw [hran]
  exact framed_framedRun s hsent.allXfer e d q

/-! ### The exclusion of sessions -/

theorem State.Serialised.lineAgrees {s : State} (h : s.Serialised) : s.LineAgrees := by
  unfold State.LineAgrees State.cs
  simp [h.lines]

/-- An operation over, the sessions are serialised again if it wrote no kept field and moved no line but its session's
own. -/
theorem State.Serialised.finish {s u : State} (h : s.Serialised) (hk : Kept s u) (hl : OwnLineOnly s u) (r : Response) :
    (u.finish r).Serialised where
  parked p hp := h.parked p (hk.parked ▸ hp)
  lines id := by
    rw [finish_sess, hk.cfg]
    by_cases hid : id = s.sess.cfg.selectId
    · subst hid
      rw [← hk.cfg]
      exact (hl.agrees h.lineAgrees).trans (by simp)
    · have hoff : s.lineLevel id ≠ .asserted := fun hon => hid ((h.lines id).1 hon).1
      have hsame : (u.finish r).lineLevel id = s.lineLevel id := lineLevel_eq_iff.2 (hl.others id hid)
      simp [hsame, hoff, hid]

/-- An instruction keeps the bus well framed and the sessions serialised. -/
theorem exec_wellFramed_serialised {i : Instr} {s t : State} (hs : s.Serialised) (hw : s.WellFramed)
    (hx : exec i s = .next t) : t.WellFramed ∧ t.Serialised := by
  obtain ⟨-, -, rfl⟩ := exec_next hx
  have hk := (start_kept s i).trans (body_kept i (s.start i))
  have hline := start_lineAgrees s i hs.lineAgrees
  obtain ⟨hl, -⟩ := body_ownLineOnly i (s.start i) hline
  exact ⟨(body_framedRun i (s.start i) hline).wellFramed (body_kept i _).par hw,
    hs.finish hk ⟨hl.once, hl.agrees, hl.others⟩ _⟩

/-- A host that keeps hazard H3 turns to a session with the bus well framed and the sessions serialised
(70_reset_and_hazards.md R157): where the session is another, none is selected before or after. -/
theorem address_wellFramed_serialised {s s1 : State} {n : Nat} (hs : s.Serialised) (hw : s.WellFramed)
    (hserial : n ≠ s.current → s.sess.nest = 0) (ha : s.address n = some s1) : s1.WellFramed ∧ s1.Serialised := by
  by_cases hn : n = s.current
  · rw [State.address, if_pos hn, Option.some.injEq] at ha
    subst ha
    exact ⟨hw, hs⟩
  have h0 := hserial hn
  obtain ⟨hperm, hs1⟩ := address_turns ha
  have hall : ∀ p ∈ s1.sessions, p.2.nest = 0 := by
    intro p hp
    rcases List.mem_cons.1 (hperm.mem_iff.1 hp) with rfl | hp
    · exact h0
    · exact hs.parked p hp
  have h1 : s1.sess.nest = 0 := hall (s1.current, s1.sess) (List.mem_cons_self ..)
  refine ⟨?_, fun p hp => hall p (List.mem_cons_of_mem _ hp), fun id => ?_⟩
  · rw [wellFramed_iff, State.busPhase, if_pos h0] at hw
    rw [wellFramed_iff, State.busPhase, if_pos h1, hs1]
    exact hw
  · have hlines : s1.lines = s.lines := by rw [hs1]
    have hoff := hs.lines id
    rw [lineLevel_asserted] at hoff ⊢
    simp only [hlines, hoff, h0, h1]
    simp

end Sys2Proof.Machine

open Sys2Proof Sys2Proof.Machine

/-- Settles O40: the host turns to another session only when none is selected, and the instruction's events are a framed
run that moves no line but its session's own. -/
theorem stepKeepsBusFraming : Obligations.StepKeepsBusFraming := by
  intro s t hs hserial hw hx
  rcases step_cases hx with ⟨-, rfl⟩ | ⟨q, rest, s1, i, hp, ha, -, hx⟩
  · exact ⟨hw, hs⟩
  · obtain ⟨hw1, hs1⟩ := address_wellFramed_serialised hs hw (hserial q rest hp) ha
    exact exec_wellFramed_serialised (s := { s1 with pending := rest }) ⟨hs1.parked, hs1.lines⟩ hw1 hx

/-- Settles O28: the counter's value before tells the outer `SELECT` from the inner one. -/
theorem selectResult : Obligations.SelectResult := by
  refine fun s hidle => ⟨fun hroom => ?_, fun hmax => exec_nestOverflow hidle (by decide) (hmax ▸ Nat.lt_succ_self _)⟩
  refine ⟨_, exec_ready .select s ⟨hidle, hroom⟩, selectLine_sameElsewhere s _, selectLine_nest _, fun hn => ?_,
    fun hn => ?_⟩
  · rw [bodyOf, selectLine_outer (s.start .select) hn]
    exact ⟨emit_assert_cs _, by simp⟩
  · rw [bodyOf, selectLine_inner (s.start .select) hn]
    exact ⟨rfl, rfl⟩

/-- Settles O29: the counter's value before tells the `DESELECT` that releases the line from those that only count. -/
theorem deselectResult : Obligations.DeselectResult := by
  intro s hidle
  refine ⟨_, exec_idle .deselect s rfl hidle, deselectLine_sameElsewhere s _, deselectLine_nest _, fun hn => ?_,
    fun hn => ?_, fun hn => ?_⟩
  · rw [bodyOf, deselectLine_outer (s.start .deselect) hn]
    exact ⟨emit_deassert_cs _, rfl⟩
  · rw [bodyOf, deselectLine_counts (s.start .deselect) hn]
    exact ⟨rfl, rfl⟩
  · rw [bodyOf, deselectLine_floor (s.start .deselect) hn]
    exact finish_start s _ _ hidle

/-- Settles O31: every other body is a run, which `after` describes once it is finished. -/
theorem operationFrame : Obligations.OperationFrame := by
  intro i s t hline hs hd hx
  obtain ⟨hidle, -, rfl⟩ := exec_next hx
  obtain ⟨evs, e, d, q, r, hbody⟩ := body_ran i (s.start i) hline hs hd
  exact ⟨evs, e, d, r, by rw [hbody, finish_ran (hq := hidle)]⟩
end

section
/-! SUPPORT. The statements about the wiper operations (42_wiper.md R102 to R107): which register they name, what `SET`
sends, and what the two reads of the wiper return. -/

namespace Sys2Proof.Machine

/-! ### The wiper of the session's unit -/

/-- The address the wiper operations send is that of the unit's wiper register (42_wiper.md R101). -/
theorem wiper_eq (s : State) : s.wiper = s.wiperRegister.setWidth 8 := by
  unfold State.wiper State.wiperRegister wiperAddr
  cases s.sess.cfg.unit <;> rfl

/-- `max_value` in the numbers of 10_state.md R16 and R18. -/
theorem toNat_maxValueOf (cfg : SessionCfg) :
    (maxValueOf cfg).toNat =
      (if cfg.resolution = .res7bit then 127 else 255) + (if cfg.wiperCfg = .potentiometer then 1 else 0) := by
  cases hres : cfg.resolution <;> cases hcfg : cfg.wiperCfg <;> simp [maxValueOf, resolutionSteps, hres, hcfg]

/-! ### `SET` -/

/-- `ENC16` sends no data bit above the ninth (40_codec.md R82), so cutting the data to nine bits changes nothing. -/
theorem enc16_cut (a op : Byte) (d : Word16) : enc16 a op ((d.setWidth 9).setWidth 16) = enc16 a op d := by
  have hmask : (d.setWidth 9).setWidth 16 &&& dataMask = d &&& dataMask := by
    apply eq_of_bits
    intro k hk
    interval_cases k <;> simp [dataMask]
  rw [enc16, enc16, hmask]

/-- What is above `max_value` is clamped to it, as `max_value` itself is (42_wiper.md R105). -/
theorem clampValue_above {value maxValue : Word16} (h : maxValue.toNat < value.toNat) :
    clampValue value maxValue = clampValue maxValue maxValue := by
  rw [clampValue, clampValue, if_neg (Nat.not_le.2 h), if_pos (Nat.le_refl _)]

/-- The write of `SET` (42_wiper.md R105), whole: the clamped value goes out, its bits above the ninth unsent. -/
theorem setWiper_spec (value : Word16) (s : State) (h : s.LineAgrees) :
    (∃ rx1 rx2 e d q, rx1.getLsbD 1 = true ∧ s.env.Supplies [rx1, rx2] e ∧
      setWiper value s = (true, s.ran
        (s.framed (longEvents s.wiper s.par.opWrite (clampValue value s.sess.maxValue) rx1 rx2)) e d q)) ∨
    (∃ rx1 e d q, rx1.getLsbD 1 = false ∧ s.env.Supplies [rx1] e ∧
      setWiper value s = (false, s.ran
        (s.framed (cutEvents s.wiper s.par.opWrite (clampValue value s.sess.maxValue) rx1)) e d q)) := by
  simpa only [setWiper, longEvents, cutEvents, enc16_cut] using
    memWrite_spec s.wiper (((clampValue value s.sess.maxValue).setWidth 9).setWidth 16) s h

/-- The finished body of `i` does not depend on the operation the sequencer names while it runs. -/
theorem finish_body_start (i j : Instr) (s : State) :
    (bodyOf i (s.start j)).2.finish (bodyOf i (s.start j)).1 =
      (bodyOf i (s.start i)).2.finish (bodyOf i (s.start i)).1 := by
  obtain ⟨hresponse, q, hstate⟩ := body_alike alike_seq i (s := s.start i) (t := s.start j) ⟨.busy j 0, rfl⟩
  rw [hresponse, hstate]
  rfl

/-- Instructions of one depth whose bodies agree on the session are one operation, accepted or refused. -/
theorem exec_eq_of_body_eq {i j : Instr} {s : State} (hd : depthOf i = depthOf j)
    (hb : bodyOf i (s.start j) = bodyOf j (s.start j)) : exec i s = exec j s := by
  rw [exec_eq_perform, exec_eq_perform, perform, perform, hd, ← finish_body_start i j, hb]

/-! ### The reads of the wiper -/

/-- An instruction whose body is one read of the wiper (42_wiper.md R106) and returns `answer` of its two results,
whole. -/
theorem exec_wiperRead {i : Instr} {s : State} (h : s.Ready (depthOf i)) (hline : s.LineAgrees)
    (answer : Bool × Word16 → Response)
    (hbody : bodyOf i (s.start i) = (answer (getWiper (s.start i)).1, (getWiper (s.start i)).2)) :
    (∃ rx1 rx2 e d, rx1.getLsbD 1 = true ∧ s.env.Supplies [rx1, rx2] e ∧
      exec i s = .next (s.after
        (s.framed (longEvents (s.wiperRegister.setWidth 8) s.par.opRead 0x1FF#16 rx1 rx2)) e d
        (answer (true, (decData rx1 rx2).setWidth 16)))) ∨
    (∃ rx1 e d v, rx1.getLsbD 1 = false ∧ s.env.Supplies [rx1] e ∧
      exec i s = .next (s.after
        (s.framed (cutEvents (s.wiperRegister.setWidth 8) s.par.opRead 0x1FF#16 rx1)) e d (answer (false, v)))) := by
  rw [← wiper_eq]
  rcases getWiper_spec (s.start i) hline with
    ⟨rx1, rx2, e, d, q, hv, hs, hx⟩ | ⟨rx1, v, e, d, q, hv, hs, hx⟩
  · exact .inl ⟨rx1, rx2, e, d, hv, hs, exec_of_body_ran h (by rw [hbody, hx]; rfl)⟩
  · exact .inr ⟨rx1, e, d, v, hv, hs, exec_of_body_ran h (by rw [hbody, hx]; rfl)⟩

/-- A decoded reply has nine bits, so it is never `GET_SENTINEL` (42_wiper.md R107). -/
theorem decData_ne_sentinel (rx1 rx2 : Byte) : (decData rx1 rx2).setWidth 16 ≠ 0xFFFF#16 := by
  intro h
  have hnat : (decData rx1 rx2).toNat % 2 ^ 16 = 0xFFFF := by
    rw [← BitVec.toNat_setWidth, h]
    rfl
  have hlt := (decData rx1 rx2).isLt
  omega

end Sys2Proof.Machine

open Sys2Proof Sys2Proof.Machine

/-- Settles O13: the body returns the field and leaves the started state as it is. -/
theorem maxvalResult : Obligations.MaxvalResult := by
  refine fun s hidle => ⟨?_, fun ⟨hmax, _⟩ => hmax ▸ toNat_maxValueOf s.sess.cfg⟩
  rw [exec_idle .maxval s rfl hidle, bodyOf, finish_start s _ _ hidle, start_sess]

/-- Settles O14: the body is one short transfer to the wiper. -/
theorem incrResult : Obligations.IncrResult := by
  intro s h hline
  rw [← wiper_eq]
  exact exec_short (i := .incr) h hline s.wiper s.par.opInc rfl

/-- Settles O15: the body is one short transfer to the wiper. -/
theorem decrResult : Obligations.DecrResult := by
  intro s h hline
  rw [← wiper_eq]
  exact exec_short (i := .decr) h hline s.wiper s.par.opDec rfl

/-- Settles O16: the body is one write of the clamped value, and a value above `max_value` has the body of
`max_value`. -/
theorem setResult : Obligations.SetResult := by
  refine ⟨fun s value h hline => ?_, fun s value habove => ?_⟩
  · rw [← wiper_eq]
    rcases setWiper_spec value (s.start (.set value)) hline with
      ⟨rx1, rx2, e, d, q, hv, hs, hx⟩ | ⟨rx1, e, d, q, hv, hs, hx⟩
    · exact .inl ⟨rx1, rx2, e, d, hv, hs, exec_of_body_ran h (by rw [bodyOf, hx]; rfl)⟩
    · exact .inr ⟨rx1, e, d, hv, hs, exec_of_body_ran h (by rw [bodyOf, hx]; rfl)⟩
  · refine exec_eq_of_body_eq rfl ?_
    simp only [bodyOf, setWiper, start_sess, clampValue_above habove]

/-- Settles O17: `GET` returns both results of the read. -/
theorem getResult : Obligations.GetResult := fun _ h hline =>
  exec_wiperRead (i := .get) h hline (fun g => .okValue g.1 g.2) rfl

/-- Settles O18: `GETV` returns the value of a read that succeeded, and the sentinel for one that failed. -/
theorem getvResult : Obligations.GetvResult := by
  refine ⟨fun s h hline => ?_, decData_ne_sentinel⟩
  rcases exec_wiperRead (i := .getv) h hline (fun g => .value (if g.1 then g.2 else getSentinel)) rfl with
    hread | ⟨rx1, e, d, v, hv, hs, hx⟩
  · exact .inl hread
  · exact .inr ⟨rx1, e, d, hv, hs, hx⟩
end

section
/-! SUPPORT. The statements about TCON and the status register (43_tcon_status.md R112 to R130): the four flags as one
family, whose setters are one read-modify-write and whose getters are one read, and what a getter returns after a setter. -/

namespace Sys2Proof.Machine

/-! ### The flag's bit -/

/-- The flag's bit is its mask moved to the session's unit (43_tcon_status.md R111). -/
theorem unitMask_eq_flagBit (s : State) (f : TconFlag) : unitMask s.sess.cfg.unit (f.mask s.par) = s.flagBit f := by
  unfold unitMask State.flagBit
  cases s.sess.cfg.unit <;> rfl

/-- The flag's bit depends on the parameters and the unit, which no operation changes. -/
@[simp] theorem after_flagBit (s : State) (f : TconFlag) (evs : List Event) (e : Env) (d : Nat) (r : Response) :
    (s.after evs e d r).flagBit f = s.flagBit f := rfl

/-- The value a setter writes back is step 4 of the read-modify-write (43_tcon_status.md R113). -/
theorem tconNew_eq_updated (s : State) (f : TconFlag) (v : Bool) (cur : Data9) :
    tconNew cur (unitMask s.sess.cfg.unit (f.mask s.par)) (f.raw v) = s.updated f v cur := by
  rw [unitMask_eq_flagBit]
  rfl

/-- The bit a getter tests is the flag's. -/
theorem flagOf_unitMask (s : State) (f : TconFlag) (cur : Data9) :
    flagOf cur (unitMask s.sess.cfg.unit (f.mask s.par)) = (cur &&& s.flagBit f != 0#9) := by
  rw [unitMask_eq_flagBit]
  rfl

/-- No mask of either unit reaches the reserved bit (43_tcon_status.md R111). -/
theorem unitMask_and_reserved (unit : UnitIndex) (mask : FlagMask) : unitMask unit mask &&& tconReservedBit = 0#9 := by
  cases unit <;> revert mask <;> decide

/-- A mask that has a bit has one in either unit. -/
theorem unitMask_ne_zero (unit : UnitIndex) {mask : FlagMask} (h : mask ≠ 0) : unitMask unit mask ≠ 0#9 := by
  cases unit <;> revert mask <;> decide

/-- Each flag has a bit (00_scope.md R8). -/
theorem TconFlag.mask_ne_zero {P : Params} (hP : P.Ok) (f : TconFlag) : f.mask P ≠ 0 := by
  obtain ⟨-, -, ⟨hA, hB, hW, hS⟩, -⟩ := hP
  cases f with
  | termA => exact hA.1
  | termB => exact hB.1
  | wiper => exact hW.1
  | shdn => exact hS.1

/-- The inversion of shutdown undoes itself (43_tcon_status.md R125, R126). -/
theorem TconFlag.raw_raw (f : TconFlag) (v : Bool) : f.raw (f.raw v) = v := by
  cases f with
  | termA => rfl
  | termB => rfl
  | wiper => rfl
  | shdn => exact Bool.not_not v

/-- Within the mask, the new TCON value is all set or all clear (law T4 of 43_tcon_status.md R114). -/
theorem tconNew_and_mask {m : Data9} (hm : m &&& tconReservedBit = 0#9) (cur : Data9) (value : Bool) :
    tconNew cur m value &&& m = if value then m else 0#9 := by
  have hreserved : tconReservedBit &&& m = 0#9 := (BitVec.and_comm ..).trans hm
  rw [tconNew, BitVec.and_or_distrib_right, hreserved, BitVec.or_zero]
  apply eq_of_bits
  intro k hk
  cases value with
  | true => simp +contextual [hk]
  | false => simp [hk]

/-- What a setter stores reads back as it was meant (43_tcon_status.md R130, for every flag). -/
theorem updated_flagBit {s : State} (hP : s.par.Ok) (f : TconFlag) (v : Bool) (cur : Data9) :
    (s.updated f v cur &&& s.flagBit f != 0#9) = f.raw v := by
  have hne : s.flagBit f ≠ 0#9 := unitMask_eq_flagBit s f ▸ unitMask_ne_zero _ (f.mask_ne_zero hP)
  rw [← tconNew_eq_updated, ← unitMask_eq_flagBit, tconNew_and_mask (unitMask_and_reserved ..), unitMask_eq_flagBit]
  cases f.raw v <;> simp [hne]

/-! ### The operations of a flag -/

/-- The two results of a flag's getter, before they are returned (43_tcon_status.md R112, R126). -/
def TconFlag.read : TconFlag → State → (Bool × Bool) × State
  | .termA, s => getTcon s.par.maskTermA s
  | .termB, s => getTcon s.par.maskTermB s
  | .wiper, s => getTcon s.par.maskWiper s
  | .shdn, s => getShutdown s

theorem depthOf_setter (f : TconFlag) (v : Bool) : depthOf (f.setter v) = 2 := by cases f <;> rfl

theorem depthOf_getter (f : TconFlag) : depthOf f.getter = 1 := by cases f <;> rfl

theorem depthOf_convenience (f : TconFlag) : depthOf f.convenience = 1 := by cases f <;> rfl

/-- Every setter is the read-modify-write of its mask (43_tcon_status.md R115, R117, R119, R125). -/
theorem bodyOf_setter (f : TconFlag) (v : Bool) (s : State) :
    bodyOf (f.setter v) s = (.ok (setTcon (f.mask s.par) (f.raw v) s).1, (setTcon (f.mask s.par) (f.raw v) s).2) := by
  cases f <;> rfl

/-- Every two-result getter returns its read (43_tcon_status.md R116, R118, R120, R126). -/
theorem bodyOf_getter (f : TconFlag) (s : State) :
    bodyOf f.getter s = (.okFlag (f.read s).1.1 (f.read s).1.2, (f.read s).2) := by
  cases f <;> rfl

/-- Every convenience getter is `CONV` of the same read (43_tcon_status.md R122 to R124, R127). -/
theorem bodyOf_convenience (f : TconFlag) (s : State) :
    bodyOf f.convenience s = (.flag (convenience (f.read s)).1, (convenience (f.read s)).2) := by
  cases f <;> rfl

/-- The read of a flag, whole: one read of TCON, and the flag's bit, inverted for shutdown. -/
theorem TconFlag.read_spec (f : TconFlag) (s : State) (h : s.LineAgrees) :
    (∃ rx1 rx2 e d q, rx1.getLsbD 1 = true ∧ s.env.Supplies [rx1, rx2] e ∧
      f.read s = ((true, f.raw (decData rx1 rx2 &&& s.flagBit f != 0#9)),
        s.ran (s.framed (longEvents (busAddr s.par.addrTcon) s.par.opRead readDummy rx1 rx2)) e d q)) ∨
    (∃ rx1 x e d q, rx1.getLsbD 1 = false ∧ s.env.Supplies [rx1] e ∧
      f.read s =
        ((false, x), s.ran (s.framed (cutEvents (busAddr s.par.addrTcon) s.par.opRead readDummy rx1)) e d q)) := by
  simp only [← flagOf_unitMask]
  cases f with
  | termA => exact getTcon_spec _ s h
  | termB => exact getTcon_spec _ s h
  | wiper => exact getTcon_spec _ s h
  | shdn => exact getShutdown_spec s h

/-! ### An oracle's answers -/

/-- What an oracle supplies is the beginning of its script, and the rest of the script is left. -/
theorem Env.Supplies.of_oracle {xs rest rxs : List Byte} {e : Env} (h : (Env.oracle (xs ++ rest)).Supplies rxs e)
    (hlen : rxs.length = xs.length) : rxs = xs ∧ e = .oracle rest := by
  obtain ⟨htake, rfl⟩ := h
  refine ⟨?_, by rw [hlen, List.drop_left]⟩
  rwa [List.take_of_length_le (by rw [List.length_append]; omega), hlen, List.take_left] at htake

end Sys2Proof.Machine

open Sys2Proof Sys2Proof.Machine

/-- Settles O19: the body is one read-modify-write, whose read or write may be refused. -/
theorem tconSetterResult : Obligations.TconSetterResult := by
  intro s f v h hline a new
  rw [← depthOf_setter f v] at h
  have hbody := bodyOf_setter f v (s.start (f.setter v))
  have hspec := setTcon_spec (f.mask s.par) (f.raw v) (s.start (f.setter v)) hline
  simp only [start_sess, start_par, tconNew_eq_updated] at hspec
  rcases hspec with ⟨rx1, e, d, q, h1, hs, hx⟩ | ⟨rx1, rx2, rx3, e, d, q, h1, h3, hs, hx⟩ |
    ⟨rx1, rx2, rx3, rx4, e, d, q, h1, h3, hs, hx⟩
  · exact .inl ⟨rx1, e, d, h1, hs, exec_of_body_ran h (by rw [hbody, start_par, hx]; rfl)⟩
  · exact .inr (.inl ⟨rx1, rx2, rx3, e, d, h1, h3, hs, exec_of_body_ran h (by rw [hbody, start_par, hx]; rfl)⟩)
  · exact .inr (.inr ⟨rx1, rx2, rx3, rx4, e, d, h1, h3, hs, exec_of_body_ran h (by rw [hbody, start_par, hx]; rfl)⟩)

/-- Settles O21: both results of the flag's read are returned. -/
theorem tconGetterResult : Obligations.TconGetterResult := by
  intro s f h hline a
  rw [← depthOf_getter f] at h
  have hbody := bodyOf_getter f (s.start f.getter)
  rcases f.read_spec (s.start f.getter) hline with ⟨rx1, rx2, e, d, q, hv, hs, hx⟩ | ⟨rx1, x, e, d, q, hv, hs, hx⟩
  · exact .inl ⟨rx1, rx2, e, d, hv, hs, exec_of_body_ran h (by rw [hbody, hx]; rfl)⟩
  · exact .inr ⟨rx1, e, d, x, hv, hs, exec_of_body_ran h (by rw [hbody, hx]; rfl)⟩

/-- Settles O22: the flag of the same read is returned, or a second draw where the read failed. -/
theorem tconConvenienceResult : Obligations.TconConvenienceResult := by
  intro s f h hline a
  rw [← depthOf_convenience f] at h
  have hbody := bodyOf_convenience f (s.start f.convenience)
  rcases f.read_spec (s.start f.convenience) hline with
    ⟨rx1, rx2, e, d, q, hv, hs, hx⟩ | ⟨rx1, _, e, d, q, hv, hs, hx⟩
  · exact .inl ⟨rx1, rx2, e, d, hv, hs, exec_of_body_ran h (by rw [hbody, hx, convenience_ok]; rfl)⟩
  · obtain ⟨x, hconv⟩ := convenience_failed _ _
    exact .inr ⟨rx1, e, d + 1, x, hv, hs, exec_of_body_ran h (by rw [hbody, hx, hconv]; rfl)⟩

/-- Settles O23: both results of the status register's read are returned. -/
theorem hardwareShutdownResult : Obligations.HardwareShutdownResult := by
  intro s h hline a
  rcases getHwShutdown_spec (s.start .gethwshdn) hline with
    ⟨rx1, rx2, e, d, q, hv, hs, hx⟩ | ⟨rx1, x, e, d, q, hv, hs, hx⟩
  · exact .inl ⟨rx1, rx2, e, d, hv, hs, exec_of_body_ran h (by rw [bodyOf, hx]; rfl)⟩
  · exact .inr ⟨rx1, e, d, x, hv, hs, exec_of_body_ran h (by rw [bodyOf, hx]; rfl)⟩

namespace Sys2Proof.Machine

/-! ### A getter after a setter -/

section
variable {s : State} {r1 r2 r3 r4 : Byte} {rest : List Byte} (f : TconFlag) (hline : s.LineAgrees)
include hline

/-- A setter whose read and write an oracle accepts takes four answers and succeeds (43_tcon_status.md R113). -/
theorem exec_setter_accepted (v : Bool) (h : s.Ready 2) (henv : s.env = .oracle ([r1, r2, r3, r4] ++ rest))
    (h1 : r1.getLsbD 1 = true) (h3 : r3.getLsbD 1 = true) :
    ∃ evs d, exec (f.setter v) s = .next (s.after evs (.oracle rest) d (.ok true)) := by
  rcases tconSetterResult s f v h hline with ⟨x1, e, d, hv1, hs, -⟩ | ⟨x1, x2, x3, e, d, -, hv3, hs, -⟩ |
    ⟨x1, x2, x3, x4, e, d, -, -, hs, hx⟩ <;> rw [henv] at hs
  · obtain ⟨⟨⟩, -⟩ := hs.of_oracle (xs := [r1]) rfl
    exact absurd (h1.symm.trans hv1) (by decide)
  · obtain ⟨⟨⟩, -⟩ := hs.of_oracle (xs := [r1, r2, r3]) rfl
    exact absurd (h3.symm.trans hv3) (by decide)
  · obtain ⟨-, rfl⟩ := hs.of_oracle rfl
    exact ⟨_, d, hx⟩

/-- A getter whose read an oracle accepts takes two answers and returns the flag's bit (43_tcon_status.md R112, R126). -/
theorem exec_getter_accepted (h : s.Ready 1) (henv : s.env = .oracle ([r1, r2] ++ rest)) (h1 : r1.getLsbD 1 = true) :
    ∃ evs d, exec f.getter s = .next (s.after evs (.oracle rest) d
      (.okFlag true (f.raw (decData r1 r2 &&& s.flagBit f != 0#9)))) := by
  rcases tconGetterResult s f h hline with ⟨x1, x2, e, d, -, hs, hx⟩ | ⟨x1, e, d, -, hv, hs, -⟩ <;> rw [henv] at hs
  · obtain ⟨⟨⟩, rfl⟩ := hs.of_oracle rfl
    exact ⟨_, d, hx⟩
  · obtain ⟨⟨⟩, -⟩ := hs.of_oracle (xs := [r1]) rfl
    exact absurd (h1.symm.trans hv) (by decide)

end

end Sys2Proof.Machine

/-- Settles O24: the getter's read returns what the setter wrote, and the inversion undoes itself. -/
theorem shutdownInversion : Obligations.ShutdownInversion := by
  intro s b r1 r2 r3 r4 r5 r6 rest h hline hP henv h1 h3 h5 hback
  have hstored := updated_flagBit hP .shdn b (decData r1 r2)
  refine ⟨hstored, ?_⟩
  obtain ⟨evs, d, hset⟩ := exec_setter_accepted (rest := [r5, r6] ++ rest) .shdn hline b h henv h1 h3
  have hready : (s.after evs (.oracle ([r5, r6] ++ rest)) d (.ok true)).Ready 1 := ⟨h.1, Nat.le_of_succ_le h.2⟩
  obtain ⟨evs', d', hget⟩ := exec_getter_accepted .shdn
    (s := s.after evs (.oracle ([r5, r6] ++ rest)) d (.ok true)) hline hready rfl h5
  rw [after_flagBit, decData_of_EA3 hback, hstored, TconFlag.raw_raw] at hget
  refine ⟨_, (runAll_cons _ hset).trans (runAll_cons [] hget), rfl, ?_⟩
  rw [after_responses, after_responses, List.append_assoc]
  rfl
end

section
/-! SUPPORT. The statement about the exceptions (60_exceptions.md): what an operation has to do with the sessions that
are not addressed. -/

namespace Sys2Proof.Machine

/-- An instruction writes no parked session (60_exceptions.md R146). -/
theorem exec_parked {i : Instr} {s t : State} (h : exec i s = .next t) : t.parked = s.parked := by
  obtain ⟨u, r, hk, rfl⟩ := exec_kept h
  exact hk.parked

end Sys2Proof.Machine

open Sys2Proof Sys2Proof.Machine

/-- Settles O34: two runs that differ in the parked sessions differ in nothing else, and neither writes them. -/
theorem otherSessionsUntouchedAndUnread : Obligations.OtherSessionsUntouchedAndUnread := by
  intro i s t others hx
  refine ⟨exec_parked hx, ?_⟩
  obtain ⟨r, u, _, rfl, rfl, hx'⟩ :=
    exec_alike (alike_parked others) i (s := s) (s' := { s with parked := others }) rfl rfl rfl rfl hx
  exact hx'
end

section
/-! SUPPORT. The statement about reset and the hazards (70_reset_and_hazards.md): what the reads return on a bus whose
every reply is 0xFF. -/

namespace Sys2Proof.Machine

/-! ### The idle-high bus -/

/-- A constant environment supplies its own byte each time (20_memory.md R56). -/
theorem Env.Supplies.eq_of_constant {rx x : Byte} {rxs : List Byte} {e : Env} (h : (Env.constant rx).Supplies rxs e)
    (hx : x ∈ rxs) : x = rx := by
  obtain ⟨hrxs, -⟩ := h
  exact List.eq_of_mem_replicate (hrxs ▸ hx)

section
variable {s : State} (henv : s.env = .constant 0xFF#8) {rx1 rx2 : Byte} {e : Env}
include henv

/-- No first reply of an idle-high bus is refused (40_codec.md R83). -/
theorem idleHigh_reply_valid (hs : s.env.Supplies [rx1] e) : rx1.getLsbD 1 = true := by
  rw [henv] at hs
  obtain rfl : rx1 = 0xFF#8 := hs.eq_of_constant (by simp)
  rfl

/-- Two replies of an idle-high bus decode to nine ones (40_codec.md R84). -/
theorem idleHigh_decData (hs : s.env.Supplies [rx1, rx2] e) : decData rx1 rx2 = BitVec.allOnes 9 := by
  rw [henv] at hs
  obtain rfl : rx1 = 0xFF#8 := hs.eq_of_constant (by simp)
  obtain rfl : rx2 = 0xFF#8 := hs.eq_of_constant (by simp)
  decide

end

/-- A flag's bit is set in nine ones, for either unit (43_tcon_status.md R111). -/
theorem allOnes_flagBit {s : State} (hP : s.par.Ok) (f : TconFlag) :
    (BitVec.allOnes 9 &&& s.flagBit f != 0#9) = true := by
  rw [BitVec.allOnes_and, bne_iff_ne, ← unitMask_eq_flagBit]
  exact unitMask_ne_zero _ (f.mask_ne_zero hP)

/-! ### The reads -/

section
variable {s : State} (hready : s.Ready 1) (hline : s.LineAgrees) (henv : s.env = .constant 0xFF#8)
include hready hline henv

/-- `GET` on an idle-high bus (70_reset_and_hazards.md R164): its read is not refused, and nine ones are 511. -/
theorem exec_get_idleHigh : ∃ t, exec .get s = .next t ∧ t.responses = s.responses ++ [.okValue true 511#16] := by
  rcases getResult s hready hline with ⟨rx1, rx2, e, d, -, hs, hx⟩ | ⟨rx1, e, d, v, hrefused, hs, -⟩
  · rw [idleHigh_decData henv hs] at hx
    exact ⟨_, hx, after_responses ..⟩
  · exact absurd hrefused (ne_false_of_eq_true (idleHigh_reply_valid henv hs))

/-- A flag getter on an idle-high bus (70_reset_and_hazards.md R164): its read is not refused, and its bit is set. -/
theorem exec_getter_idleHigh (hP : s.par.Ok) (f : TconFlag) :
    ∃ t, exec f.getter s = .next t ∧ t.responses = s.responses ++ [.okFlag true (f.raw true)] := by
  rcases tconGetterResult s f hready hline with ⟨rx1, rx2, e, d, -, hs, hx⟩ | ⟨rx1, e, d, x, hrefused, hs, -⟩
  · rw [idleHigh_decData henv hs, allOnes_flagBit hP] at hx
    exact ⟨_, hx, after_responses ..⟩
  · exact absurd hrefused (ne_false_of_eq_true (idleHigh_reply_valid henv hs))

end

end Sys2Proof.Machine

open Sys2Proof Sys2Proof.Machine

/-- Settles O43: a reply of ones is valid, and every bit it decodes to is set. -/
theorem idleHighBusLooksValid : Obligations.IdleHighBusLooksValid := fun _ hready hline hP henv =>
  ⟨exec_get_idleHigh hready hline henv, exec_getter_idleHigh hready hline henv hP⟩
end

section
/-! SUPPORT. The statements about the encoding (30_encoding.md) and the codec's laws (40_codec.md R89): which bytes the
decoder accepts, the fields that make up a command's bytes, and what a request's code and operand fields become. -/

namespace Sys2Proof.Machine

/-! ### Fields and operands -/

/-- An address that fits its field is not cut by it (30_encoding.md R59). -/
theorem setWidth_addr_of_fits {addr : Byte} (h : AddrFits addr) : (addr.extractLsb' 0 4).setWidth 8 = addr := by
  apply BitVec.eq_of_toNat_eq
  simp only [BitVec.toNat_setWidth, BitVec.extractLsb'_toNat, Nat.shiftRight_zero]
  omega

/-- Data that fit their field are not cut by it (30_encoding.md R62). -/
theorem setWidth_data_of_fits {data : Word16} (h : DataFits data) : (data.setWidth 9).setWidth 16 = data := by
  apply BitVec.eq_of_toNat_eq
  simp only [BitVec.toNat_setWidth]
  omega

/-- What comes from an address field fits one. -/
theorem addrFits_field (a : RegAddr) : AddrFits (a.setWidth 8) := by
  have ha := a.isLt
  simp only [AddrFits, BitVec.toNat_setWidth]
  omega

/-- What comes from a data field fits one. -/
theorem dataFits_field (d : Data9) : DataFits (d.setWidth 16) := by
  have hd := d.isLt
  simp only [DataFits, BitVec.toNat_setWidth]
  omega

/-- A first byte with its probe bit set is what `ENC8` makes of its fields, with its own bit 0
(30_encoding.md R57, R58). -/
theorem enc8_fields {b : Byte} (hprobe : probeField b = true) :
    enc8 ((addrField b).setWidth 8) ((opField b).setWidth 8) ||| (b.extractLsb' 0 1).setWidth 8 = b := by
  revert b
  decide

/-- Nine bits read from two bytes carry bit 0 of the first at bit 8 (30_encoding.md R62). -/
theorem dataField_high (b b2 : Byte) : ((dataField b b2).setWidth 16).extractLsb' 8 1 = b.extractLsb' 0 1 := by
  rw [BitVec.extractLsb'_setWidth_of_le (by decide), dataField, BitVec.extractLsb'_append_eq_left]

/-- Nine bits read from two bytes carry the second below bit 8 (30_encoding.md R62). -/
theorem dataField_low (b b2 : Byte) : ((dataField b b2).setWidth 16).extractLsb' 0 8 = b2 := by
  rw [BitVec.extractLsb'_setWidth_of_le (by decide), dataField, BitVec.extractLsb'_append_eq_right]

/-! ### Wire commands -/

/-- The bytes spell the instruction: the first byte has its probe bit set and the instruction's operation, the operands
are the fields, and the bytes are as many as the operation has (30_encoding.md R57, R58, R65). -/
inductive Spells (P : Params) : List Byte → Instr → Prop where
  | incr {b : Byte} (hprobe : probeField b = true) (hop : opField b = P.opInc) (hlow : lowBitField b = false) :
      Spells P [b] (.cmdIncr ((addrField b).setWidth 8))
  | decr {b : Byte} (hprobe : probeField b = true) (hop : opField b = P.opDec) (hlow : lowBitField b = false) :
      Spells P [b] (.cmdDecr ((addrField b).setWidth 8))
  | write {b : Byte} (b2 : Byte) (hprobe : probeField b = true) (hop : opField b = P.opWrite) :
      Spells P [b, b2] (.cmdWrite ((addrField b).setWidth 8) ((dataField b b2).setWidth 16))
  | read {b : Byte} (b2 : Byte) (hprobe : probeField b = true) (hop : opField b = P.opRead) :
      Spells P [b, b2] (.cmdRead ((addrField b).setWidth 8))

/-- A short command that decodes is one byte with bit 0 clear (30_encoding.md R57). -/
theorem decodeShort_ok {command : Byte → Instr} {b : Byte} {rest : List Byte} {i : Instr}
    (h : decodeShort command b rest = .ok i) :
    rest = [] ∧ lowBitField b = false ∧ i = command ((addrField b).setWidth 8) := by
  unfold decodeShort at h
  split at h
  · cases h
  · cases h
    exact ⟨rfl, ‹_›, rfl⟩
  · cases h

/-- A long command that decodes is two bytes (30_encoding.md R58). -/
theorem decodeLong_ok {command : Byte → Word16 → Instr} {b : Byte} {rest : List Byte} {i : Instr}
    (h : decodeLong command b rest = .ok i) :
    ∃ b2, rest = [b2] ∧ i = command ((addrField b).setWidth 8) ((dataField b b2).setWidth 16) := by
  unfold decodeLong at h
  split at h
  · cases h
  · cases h
    exact ⟨_, rfl, rfl⟩
  · cases h

/-- What the decoder reads from bytes, the bytes spell. -/
theorem spells_of_decodeWire {P : Params} {bytes : List Byte} {i : Instr} (h : decodeWire P bytes = .ok i) :
    Spells P bytes i := by
  cases bytes with
  | nil => cases h
  | cons b rest =>
    rw [decodeWire] at h
    split at h
    · cases h
    rename_i hprobe
    rw [Bool.not_eq_false] at hprobe
    split at h
    · rename_i hop
      obtain ⟨rfl, hlow, rfl⟩ := decodeShort_ok h
      exact .incr hprobe hop hlow
    split at h
    · rename_i hop
      obtain ⟨rfl, hlow, rfl⟩ := decodeShort_ok h
      exact .decr hprobe hop hlow
    split at h
    · rename_i hop
      obtain ⟨b2, rfl, rfl⟩ := decodeLong_ok h
      exact .write b2 hprobe hop
    split at h
    · rename_i hop
      obtain ⟨b2, rfl, rfl⟩ := decodeLong_ok h
      exact .read b2 hprobe hop
    · cases h

/-- What bytes spell, the decoder reads from them, where the four operations are distinct (30_encoding.md R60). -/
theorem Spells.decodes {P : Params} (hP : P.Ok) {bytes : List Byte} {i : Instr} (h : Spells P bytes i) :
    decodeWire P bytes = .ok i := by
  obtain ⟨hdi, hri, hrd, hwi, hwd, hwr⟩ := ops_ne_of_ok hP
  cases h with
  | incr hprobe hop hlow => simp [decodeWire, decodeShort, hprobe, hop, hlow]
  | decr hprobe hop hlow => simp [decodeWire, decodeShort, hprobe, hop, hlow, hdi]
  | write b2 hprobe hop => simp [decodeWire, decodeLong, hprobe, hop, hwi, hwd]
  | read b2 hprobe hop => simp [decodeWire, decodeLong, hprobe, hop, hri, hrd, hwr.symm]

/-- The byte of either short command spells it where its address fits (30_encoding.md R57). -/
theorem spells_short {P : Params} {addr : Byte} (h : AddrFits addr) :
    Spells P [enc8 addr (P.opInc.setWidth 8)] (.cmdIncr addr) ∧
      Spells P [enc8 addr (P.opDec.setWidth 8)] (.cmdDecr addr) := by
  have hfield : ∀ op, (addrField (enc8 addr op)).setWidth 8 = addr := fun op => by
    rw [addrField, enc8_addr, setWidth_addr_of_fits h]
  have hop : ∀ op : OpBits, opField (enc8 addr (op.setWidth 8)) = op := fun op => by
    rw [opField, enc8_op, op_extract]
  constructor
  · have hs := Spells.incr (enc8_probe addr (P.opInc.setWidth 8)) (hop P.opInc) (enc8_low _ _)
    rwa [hfield] at hs
  · have hs := Spells.decr (enc8_probe addr (P.opDec.setWidth 8)) (hop P.opDec) (enc8_low _ _)
    rwa [hfield] at hs

/-- A long command whose address fits carries it in its first byte, whatever its operation and data. -/
theorem addrField_first_of_fits {addr : Byte} (h : AddrFits addr) (op : Byte) (data : Word16) :
    (addrField (firstByte (enc16 addr op data))).setWidth 8 = addr := by
  rw [addrField_first, setWidth_addr_of_fits h]

/-- The bytes of a write whose operands fit spell it (30_encoding.md R58). -/
theorem spells_write {P : Params} {addr : Byte} {data : Word16} (ha : AddrFits addr) (hd : DataFits data) :
    Spells P [firstByte (enc16 addr (P.opWrite.setWidth 8) data), secondByte (enc16 addr (P.opWrite.setWidth 8) data)]
      (.cmdWrite addr data) := by
  have hs := Spells.write (P := P) (secondByte (enc16 addr (P.opWrite.setWidth 8) data))
    (firstByte_probe addr (P.opWrite.setWidth 8) data) (opField_first ..)
  rwa [addrField_first_of_fits ha, dataField_enc16, setWidth_data_of_fits hd] at hs

/-- The bytes of a read whose address fits spell it, whatever the data bits (30_encoding.md R58, R68). -/
theorem spells_read {P : Params} {addr : Byte} (ha : AddrFits addr) (data : Word16) :
    Spells P [firstByte (enc16 addr (P.opRead.setWidth 8) data), secondByte (enc16 addr (P.opRead.setWidth 8) data)]
      (.cmdRead addr) := by
  have hs := Spells.read (P := P) (secondByte (enc16 addr (P.opRead.setWidth 8) data))
    (firstByte_probe addr (P.opRead.setWidth 8) data) (opField_first ..)
  rwa [addrField_first_of_fits ha] at hs

/-- Encoding a short command's fields gives its byte back. -/
theorem shortFrame_fields {b : Byte} (hprobe : probeField b = true) (hlow : lowBitField b = false) :
    shortFrame ((addrField b).setWidth 8) (opField b) = .wire [b] := by
  have hzero : b.extractLsb' 0 1 = 0#1 := by
    apply eq_of_bits
    intro k hk
    interval_cases k
    simpa [lowBitField] using hlow
  have hb := enc8_fields hprobe
  rw [hzero, BitVec.setWidth_zero, BitVec.or_zero] at hb
  rw [shortFrame, hb]

/-- Encoding a long command's fields gives its bytes back. -/
theorem longFrame_fields {b : Byte} (hprobe : probeField b = true) (b2 : Byte) :
    longFrame ((addrField b).setWidth 8) (opField b) ((dataField b b2).setWidth 16) = .wire [b, b2] := by
  rw [longFrame, firstByte_eq, secondByte_eq, dataField_high, dataField_low, enc8_fields hprobe]

/-- Encoding a read gives its first byte with the data bits set (30_encoding.md R68). -/
theorem longFrame_readDummy {b : Byte} (hprobe : probeField b = true) :
    longFrame ((addrField b).setWidth 8) (opField b) readDummy = .wire [b ||| 0x01#8, 0xFF#8] := by
  have hbit : (b.extractLsb' 0 1).setWidth 8 ||| 0x01#8 = 0x01#8 := by
    revert b
    decide
  have hb := congrArg (· ||| 0x01#8) (enc8_fields hprobe)
  simp only [BitVec.or_assoc, hbit] at hb
  rw [longFrame, firstByte_eq, secondByte_eq, ← hb]
  rfl

/-! ### Requests -/

/-- `i` is the operation that the request code stands for, with the operand its row of 30_encoding.md R77 names. -/
structure Requests (code : BitVec 5) (v : Word16) (g : Bool) (i : Instr) : Prop where
  host : isHostOp i = true
  code : ∀ P, ∃ v' g', encode P i = .host code v' g'
  value : ∀ value, i = .set value → value = v
  flag : ∀ flag, i = .setta flag ∨ i = .settb flag ∨ i = .setw flag ∨ i = .setshdn flag → flag = g

/-- What the decoder reads from a request, the request asks for (30_encoding.md R78). -/
theorem requests_of_decodeHost {code : BitVec 5} {v : Word16} {g : Bool} {i : Instr}
    (h : decodeHost code v g = .ok i) : Requests code v g i := by
  unfold decodeHost at h
  split at h
  case h_22 => cases h
  all_goals
    rename_i hcode
    cases h
    exact ⟨rfl, fun _ => ⟨_, _, congrArg (Frame.host · _ _) (BitVec.eq_of_toNat_eq hcode.symm)⟩, by simp, by simp⟩

/-- A host operation's operands have the width of their port (30_encoding.md R77). -/
theorem wellFormed_of_isHostOp {i : Instr} (h : isHostOp i = true) : WellFormed i := by
  cases i with
  | cmdWrite | cmdRead | cmdIncr | cmdDecr => cases h
  | _ => rfl

/-- Request codes 21 to 31 stand for no operation (30_encoding.md R78). -/
theorem decodeHost_reserved {code : BitVec 5} (h : 21 ≤ code.toNat) (v : Word16) (g : Bool) :
    decodeHost code v g = .error (.reservedRequest code) := by
  unfold decodeHost
  split
  case h_22 => rfl
  all_goals omega

/-! ### The codec's laws -/

/-- The two low bits of `ENC8`: the probe bit set above a clear bit (law L5 of 40_codec.md R89). -/
theorem enc8_lowBits (a op : Byte) : (enc8 a op).extractLsb' 0 2 = 0b10#2 := by
  apply eq_of_bits
  intro k hk
  rw [BitVec.getLsbD_extractLsb', decide_eq_true hk, Bool.true_and]
  interval_cases k
  · exact enc8_low a op
  · exact enc8_probe a op

/-- `DATA_MASK` keeps the nine bits of a register (00_scope.md R9). -/
theorem setWidth_dataMask (d : Word16) : (d &&& 0x1FF#16).setWidth 9 = d.setWidth 9 := by
  have hones : (0x1FF#16).setWidth 9 = BitVec.allOnes 9 := by decide
  rw [BitVec.setWidth_and, hones, BitVec.and_allOnes]

/-- Flipping bit 1 flips the verdict (law L3 of 40_codec.md R89). -/
theorem isValid_flip (b : Byte) : isValid (b ^^^ 0x02#8) = !isValid b := by
  simp [isValid_eq]

/-- `ENC8` forgets nothing of its fields (law L7 of 40_codec.md R89). -/
theorem enc8_fields_injective {a op a' op' : Byte} (h : enc8 a op = enc8 a' op') :
    a.extractLsb' 0 4 = a'.extractLsb' 0 4 ∧ op.extractLsb' 0 2 = op'.extractLsb' 0 2 := by
  rw [← enc8_addr a op, ← enc8_op a op, h, enc8_addr, enc8_op]
  exact ⟨rfl, rfl⟩

/-- `ENC16` forgets nothing of its fields (law L7 of 40_codec.md R89). -/
theorem enc16_fields_injective {a op a' op' : Byte} {d d' : Word16} (h : enc16 a op d = enc16 a' op' d') :
    a.extractLsb' 0 4 = a'.extractLsb' 0 4 ∧ op.extractLsb' 0 2 = op'.extractLsb' 0 2 ∧
      d.extractLsb' 0 9 = d'.extractLsb' 0 9 := by
  rw [← firstByte_addr a op d, ← firstByte_op a op d, ← enc16_field_low a op d (Nat.le_refl 9), h, firstByte_addr,
    firstByte_op, enc16_field_low a' op' d' (Nat.le_refl 9)]
  exact ⟨rfl, rfl, rfl⟩

/-- `DECDATA` reads bit 0 of the first byte and no other of it (law L8 of 40_codec.md R89). -/
theorem decData_congr {b1 b1' : Byte} (b2 : Byte) (h : b1.getLsbD 0 = b1'.getLsbD 0) :
    decData b1 b2 = decData b1' b2 := by
  rw [decData_eq, decData_eq, ← ofBool_lowBitField_append, ← ofBool_lowBitField_append, lowBitField, lowBitField, h]

end Sys2Proof.Machine

open Sys2Proof Sys2Proof.Machine

/-- Settles O4: the bytes of a wire command spell it, and a request's code is its own. -/
theorem decodeOfEncode : Obligations.DecodeOfEncode := by
  intro P i hP hwf
  cases i with
  | cmdWrite addr data =>
    obtain ⟨ha, hd⟩ : AddrFits addr ∧ DataFits data := by simpa [WellFormed, wellFormed] using hwf
    exact (spells_write ha hd).decodes hP
  | cmdRead addr => exact (spells_read (of_decide_eq_true hwf) _).decodes hP
  | cmdIncr addr => exact (spells_short (of_decide_eq_true hwf)).1.decodes hP
  | cmdDecr addr => exact (spells_short (of_decide_eq_true hwf)).2.decodes hP
  | _ => rfl

/-- Settles O1: the laws are the codec's fields, read forwards and backwards. -/
theorem codecLaws : Obligations.CodecLaws :=
  ⟨fun a op => (isValid_eq _).trans (enc8_probe a op),
    fun a op d => (isValid_eq _).trans (firstByte_probe a op d),
    isValid_flip,
    fun a op d => (decData_enc16 a op d).trans (setWidth_dataMask d).symm,
    fun a op => ⟨enc8_addr a op, enc8_op a op, enc8_lowBits a op⟩,
    fun a op d => ⟨enc16_field_high a op d (i := 1) (by decide) (by decide), enc16_field_low a op d (by decide)⟩,
    fun _ _ _ _ => enc8_fields_injective,
    fun _ _ _ _ _ _ => enc16_fields_injective,
    fun b b' h => by rw [isValid_eq, isValid_eq, h],
    fun _ _ => decData_congr⟩

/-- Settles O5: bytes that spell a command are its frame, a read's data bits apart, and a request's operation keeps the
code and the operand it names. -/
theorem encodeOfDecode : Obligations.EncodeOfDecode := by
  intro P f i h
  cases f with
  | host code v g =>
    have hreq := requests_of_decodeHost h
    refine ⟨wellFormed_of_isHostOp hreq.host, nofun, nofun, ?_⟩
    rintro _ _ _ ⟨⟩
    exact ⟨hreq.code P, hreq.value, hreq.flag⟩
  | wire bytes =>
    cases spells_of_decodeWire h with
    | incr hprobe hop hlow =>
      refine ⟨decide_eq_true (addrFits_field _), fun _ _ _ => ?_, nofun, nofun⟩
      rw [encode, ← hop, shortFrame_fields hprobe hlow]
    | decr hprobe hop hlow =>
      refine ⟨decide_eq_true (addrFits_field _), fun _ _ _ => ?_, nofun, nofun⟩
      rw [encode, ← hop, shortFrame_fields hprobe hlow]
    | write b2 hprobe hop =>
      refine ⟨?_, fun _ _ _ => ?_, nofun, nofun⟩
      · simp only [WellFormed, wellFormed, addrFits_field, dataFits_field, decide_true, Bool.and_self]
      · rw [encode, ← hop, longFrame_fields hprobe]
    | read b2 hprobe hop =>
      refine ⟨decide_eq_true (addrFits_field _), fun _ _ hne => absurd rfl (hne _), ?_, nofun⟩
      rintro _ _ ⟨⟩ -
      exact ⟨_, b2, rfl, by rw [encode, ← hop, longFrame_readDummy hprobe]⟩

/-- Settles O6: the decoder is run on each word. -/
theorem tableWordsDecode : Obligations.TableWordsDecode := by
  unfold Obligations.TableWordsDecode
  decide
end

section
/-! SUPPORT. The statements about the step and its refusals (60_exceptions.md R143, R144, R146; 70_reset_and_hazards.md
R152): how a request finds its session and is decoded, what stops an operation at its entry, and what one returns. -/

namespace Sys2Proof.Machine

/-! ### The request -/

/-- The session addressed is the current one (60_exceptions.md R146). -/
theorem address_current {s s1 : State} {n : Nat} (h : s.address n = some s1) : s1.current = n := by
  unfold State.address at h
  split at h
  · cases h
    exact Eq.symm ‹_›
  · simp only [Option.map_eq_some_iff] at h
    obtain ⟨found, -, rfl⟩ := h
    rfl

/-- The current session is found where it is. -/
theorem address_self (s : State) : s.address s.current = some s := if_pos rfl

section
variable {s s1 : State} {q : Request} {rest : List Request} (hp : s.pending = q :: rest)
  (ha : s.address q.session = some s1)
include hp ha

/-- A request that decodes is run in its session's state, the request taken (60_exceptions.md R144). -/
theorem step_of_decode_ok {i : Instr} (hd : decode s.par q.frame = .ok i) :
    step s = exec i { s1 with pending := rest } := by
  simp only [step, fetch, hp, ha, hd]

/-- A request that does not decode is refused. -/
theorem step_of_decode_error {why : Reject} (hd : decode s.par q.frame = .error why) :
    step s = .refused (refusalOf why) := by
  simp only [step, fetch, hp, ha, hd]

end

/-- Without a request the block waits (70_reset_and_hazards.md R152). -/
theorem step_of_no_request {s : State} (hp : s.pending = []) : step s = .next s := by
  simp only [step, fetch, hp]

/-! ### The operation -/

/-- Nothing starts while an operation is in progress (60_exceptions.md R144). -/
theorem exec_busy {s : State} {op : Instr} {k : Nat} (h : s.seq = .busy op k) (i : Instr) :
    exec i s = .refused .busy := by
  simp [exec_eq_perform, perform, h, Seq.isIdle]

/-- From IDLE an operation that makes a `SELECT` is refused as `NestOverflow` where it would pass `NEST_MAX`, and only
there (60_exceptions.md R143). -/
theorem exec_nestOverflow_iff {i : Instr} {s : State} (hidle : s.seq = .idle) (hd : depthOf i ≠ 0) :
    exec i s = .refused .nestOverflow ↔ s.par.nestMax < s.sess.nest + depthOf i := by
  refine ⟨fun h => Nat.lt_of_not_le fun hroom => ?_, exec_nestOverflow hidle hd⟩
  rw [exec_ready i s ⟨hidle, hroom⟩] at h
  cases h

/-- Every body returns a response of its instruction's shape (30_encoding.md R77). -/
theorem body_shape (i : Instr) (s : State) : ShapeOf i (bodyOf i s).1 := by
  cases i with
  | select | deselect => rfl
  | cmdRead | get | getta | gettb | getw | getshdn | gethwshdn => exact ⟨_, _, rfl⟩
  | _ => exact ⟨_, rfl⟩

end Sys2Proof.Machine

open Sys2Proof Sys2Proof.Machine

/-- Settles O9: the session turned to is at the head of the sessions, which are those of before, rearranged. -/
theorem requestReachesItsSession : Obligations.RequestReachesItsSession := by
  intro s s1 n h
  obtain ⟨hperm, hs1⟩ := address_turns h
  obtain rfl := address_current h
  exact ⟨rfl, hperm.mem_iff.1 (List.mem_cons_self ..), hperm, hs1⟩

/-- Settles O10: with room an operation is run, without depth it needs none, and a reserved code does not decode. -/
theorem refusalsOfTheModel : Obligations.RefusalsOfTheModel := by
  refine ⟨fun i s hidle hd => exec_nestOverflow_iff hidle (Nat.ne_of_gt hd),
    fun i s hidle hd => ⟨_, exec_idle i s hd hidle⟩, fun s s1 q rest code v g hp ha hq hcode => ?_⟩
  have hd : decode s.par q.frame = .error (.reservedRequest code) := hq ▸ decodeHost_reserved hcode v g
  exact step_of_decode_error hp ha hd

/-- Settles O11: the operation runs its body, which keeps the responses, and returns the body's. -/
theorem everyOperationCompletes : Obligations.EveryOperationCompletes := by
  intro i s h
  exact ⟨_, _, exec_ready i s h, rfl, congrArg (· ++ _) (body_kept i (s.start i)).responses, body_shape i _⟩

/-- Settles O7: the request's session is found and its frame decodes; the current session is found where it is. -/
theorem stepRunsDecodedInstruction : Obligations.StepRunsDecodedInstruction := by
  intro s s1 q rest i hp ha hd
  have hstep := step_of_decode_ok hp ha hd
  refine ⟨hstep, fun hq => ?_⟩
  rw [hq, address_self, Option.some.injEq] at ha
  rw [hstep, ha]

/-- Settles O8: nothing is fetched. -/
theorem stepWaitsForRequest : Obligations.StepWaitsForRequest := fun _ => step_of_no_request

/-- Settles O12: every instruction asks for IDLE at its entry. -/
theorem busyOperationRefused : Obligations.BusyOperationRefused := fun i _ _ _ h => exec_busy h i
end

section
/-! SUPPORT. The statement about the TCON update (43_tcon_status.md R114): the value written back, bit by bit. -/

namespace Sys2Proof.Machine

/-- Below the reserved bit, an update gives the masked bits the value and leaves the others (43_tcon_status.md R113). -/
theorem tconNew_getLsbD_low (cur m : Data9) (value : Bool) {k : Nat} (hk : k < 8) :
    (tconNew cur m value).getLsbD k = if m.getLsbD k then value else cur.getLsbD k := by
  have hreserved : tconReservedBit.getLsbD k = false := by
    interval_cases k <;> rfl
  have hk9 : k < 9 := by omega
  rw [tconNew, BitVec.getLsbD_or, hreserved, Bool.or_false]
  cases value with
  | true =>
    rw [if_pos rfl, BitVec.getLsbD_or]
    cases m.getLsbD k <;> simp
  | false =>
    rw [if_neg Bool.false_ne_true, BitVec.getLsbD_and, BitVec.getLsbD_not, decide_eq_true hk9]
    cases m.getLsbD k <;> simp

/-- An update sets the reserved bit (conflict C2). -/
theorem tconNew_reserved (cur m : Data9) (value : Bool) : (tconNew cur m value).getLsbD 8 = true := by
  simp [tconNew, tconReservedBit]

/-- Any field below the reserved bit that the mask leaves clear is kept (43_tcon_status.md R114). -/
theorem tconNew_field {m : Data9} {i n : Nat} (hm : m.extractLsb' i n = 0) (hfield : i + n ≤ 8) (cur : Data9)
    (value : Bool) : (tconNew cur m value).extractLsb' i n = cur.extractLsb' i n := by
  apply eq_of_bits
  intro k hk
  have hclear : m.getLsbD (i + k) = false := by
    simpa [hk] using congrArg (BitVec.getLsbD · k) hm
  rw [BitVec.getLsbD_extractLsb', BitVec.getLsbD_extractLsb', tconNew_getLsbD_low cur m value (by omega), hclear]
  rfl

/-- Every flag outside the mask is kept (law T1 of 43_tcon_status.md R114). -/
theorem tconNew_outside_mask (cur m : Data9) (value : Bool) :
    (tconNew cur m value).extractLsb' 0 8 &&& ~~~(m.extractLsb' 0 8) =
      cur.extractLsb' 0 8 &&& ~~~(m.extractLsb' 0 8) := by
  apply eq_of_bits
  intro k hk
  simp only [BitVec.getLsbD_and, BitVec.getLsbD_not, BitVec.getLsbD_extractLsb', Nat.zero_add,
    tconNew_getLsbD_low cur m value hk]
  cases m.getLsbD k <;> simp

/-- A mask of unit 0 has no bit in unit 1's nibble (43_tcon_status.md R111). -/
theorem unitMask_unit0_high (mask : FlagMask) : (unitMask .unit0 mask).extractLsb' 4 4 = 0 := by
  revert mask
  decide

/-- A mask of unit 1 has no bit in unit 0's nibble (43_tcon_status.md R111). -/
theorem unitMask_unit1_low (mask : FlagMask) : (unitMask .unit1 mask).extractLsb' 0 4 = 0 := by
  revert mask
  decide

end Sys2Proof.Machine

open Sys2Proof Sys2Proof.Machine

/-- Settles O20: the update is known bit by bit, and a unit's mask lies in its own nibble. -/
theorem tconPreservationLaws : Obligations.TconPreservationLaws := by
  intro unit mask cur value a op m new
  refine ⟨tconNew_outside_mask cur m value, ?_, ?_, tconNew_and_mask (unitMask_and_reserved unit mask) cur value,
    tconNew_reserved cur m value, ?_, ?_⟩
  · rintro rfl
    exact tconNew_field (unitMask_unit0_high mask) (by decide) cur value
  · rintro rfl
    exact tconNew_field (unitMask_unit1_low mask) (by decide) cur value
  · rw [secondByte_eq, BitVec.extractLsb'_setWidth_of_le (by decide)]
  · rw [firstByte_low, BitVec.getLsbD_setWidth]
    exact tconNew_reserved cur m value
end

section
/-! SUPPORT. The statement about nested critical sections (41_select_transfer.md R93, laws N1 and N6): a `SELECT` and a
`DESELECT` around operations that emit nothing frame nothing. -/

namespace Sys2Proof.Machine

/-- `s` after operations that emitted `evs`, left the environment as `e` and the responses as `rs`: nothing else
differs. -/
def State.responded (s : State) (evs : List Event) (e : Env) (rs : List Response) : State :=
  { s with hist := s.hist ++ evs, env := e, responses := rs }

theorem responded_nil (s : State) : s.responded [] s.env s.responses = s := by
  simp [State.responded]

/-- `SELECT` with room, whole (41_select_transfer.md R91). -/
theorem exec_select {s : State} (h : s.Ready 1) : exec .select s = .next ((selectLine s).finish .none) := by
  rw [exec_ready .select s h, bodyOf]
  by_cases hn : s.sess.nest = 0
  · rw [selectLine_outer s hn, selectLine_outer (s.start .select) hn]
    rfl
  · rw [selectLine_inner s hn, selectLine_inner (s.start .select) hn]
    rfl

/-- `DESELECT`, whole (41_select_transfer.md R92). -/
theorem exec_deselect {s : State} (h : s.seq = .idle) : exec .deselect s = .next ((deselectLine s).finish .none) := by
  rw [exec_idle .deselect s rfl h, bodyOf]
  by_cases hn : s.sess.nest = 1
  · rw [deselectLine_outer s hn, deselectLine_outer (s.start .deselect) hn]
    rfl
  · rw [deselectLine_counts s hn, deselectLine_counts (s.start .deselect) hn]
    rfl

/-- `DESELECT` neither reads nor writes the responses (10_state.md R30). -/
theorem deselectLine_responses (s : State) (rs : List Response) :
    deselectLine { s with responses := rs } = { deselectLine s with responses := rs } := by
  by_cases hn : s.sess.nest = 1
  · rw [deselectLine_outer s hn, deselectLine_outer { s with responses := rs } hn]
    rfl
  · rw [deselectLine_counts s hn, deselectLine_counts { s with responses := rs } hn]
    rfl

/-- A program runs its first part and then the rest. -/
theorem runAll_append {is js : List Instr} {s t : State} (h : runAll is s = .next t) :
    runAll (is ++ js) s = runAll js t := by
  induction is generalizing s with
  | nil =>
    cases h
    rfl
  | cons i is ih =>
    unfold runAll at h
    split at h
    · exact (runAll_cons _ ‹_›).trans (ih h)
    · cases h
    · cases h

section
variable {s : State} (hline : s.LineAgrees) (hidle : s.seq = .idle)
include hline hidle

/-- The `DESELECT` of a `SELECT` with nothing emitted between (41_select_transfer.md R94). -/
theorem deselectLine_responded (e : Env) (rs : List Response) :
    (deselectLine (((selectLine s).finish .none).responded [] e rs)).finish .none =
      s.responded (s.framed []) (s.released e) (rs ++ [.none]) := by
  have hran : ((selectLine s).finish .none).responded [] e rs =
      { (selectLine s).ran [] e s.draws .idle with responses := rs } := by
    simp [State.responded, State.finish, State.ran]
  rw [hran, deselectLine_responses, section_restores s hline]
  simp [State.responded, State.finish, State.ran, hidle]

/-- `SELECT` and `DESELECT` around a program that emits nothing inside: the events are those of one critical section,
framing nothing. -/
theorem runAll_section (hroom : s.sess.nest + 1 ≤ s.par.nestMax) {inside : List Instr} {e : Env} {rs : List Response}
    (h : runAll inside ((selectLine s).finish .none) = .next (((selectLine s).finish .none).responded [] e rs)) :
    ∃ e' rs', runAll (.select :: (inside ++ [.deselect])) s = .next (s.responded (s.framed []) e' rs') := by
  refine ⟨s.released e, rs ++ [.none], ?_⟩
  rw [runAll_cons _ (exec_select ⟨hidle, hroom⟩), runAll_append h, runAll_cons [] (exec_deselect rfl),
    deselectLine_responded hline hidle, runAll]

end

/-- Nested critical sections emit what one does (laws N1 and N6 of 41_select_transfer.md R93). -/
theorem runAll_nested (k : Nat) {s : State} (hline : s.LineAgrees) (hidle : s.seq = .idle)
    (hroom : s.sess.nest + (k + 1) ≤ s.par.nestMax) :
    ∃ e rs, runAll (List.replicate (k + 1) .select ++ List.replicate (k + 1) .deselect) s =
      .next (s.responded (s.framed []) e rs) := by
  induction k generalizing s with
  | zero =>
    exact runAll_section hline hidle hroom
      (congrArg Host.Outcome.next (responded_nil ((selectLine s).finish .none)).symm)
  | succ k ih =>
    have hnest : (selectLine s).sess.nest + (k + 1) ≤ (selectLine s).par.nestMax := by
      rw [selectLine_nest, selectLine_par]
      omega
    obtain ⟨e, rs, h⟩ := ih (s := (selectLine s).finish .none) (selectLine_lineAgrees s hline) rfl hnest
    rw [show ((selectLine s).finish .none).framed [] = [] from framed_selectLine s []] at h
    rw [List.replicate_succ, List.replicate_succ' (n := k + 1), List.cons_append, ← List.append_assoc]
    exact runAll_section hline hidle (by omega) h

end Sys2Proof.Machine

open Sys2Proof Sys2Proof.Machine

/-- Settles O30: the innermost pair frames nothing, and each pair around it adds nothing but the outermost's events. -/
theorem nestedSelectsAssertOnce : Obligations.NestedSelectsAssertOnce := by
  intro s k hidle hline hn h1 hk
  obtain ⟨k, rfl⟩ := Nat.exists_eq_add_of_le' h1
  obtain ⟨e, rs, h⟩ := runAll_nested k hline hidle (by omega)
  exact ⟨_, h, rfl, rfl, by simp [State.responded, State.framed, hn]⟩
end

section
/-! SUPPORT. The statements about construction and reset (70_reset_and_hazards.md R151 to R154): what a session starts
with, and that the invariants hold of it whatever its options. -/

namespace Sys2Proof.Machine

/-- A session as constructed meets the invariant under any parameters that meet their constraints. -/
theorem construct_inv {P : Params} (hP : P.Ok) (cfg : SessionCfg) : (State.construct P cfg).Inv where
  params := hP
  idle := rfl
  sessionsOk p hp := by
    obtain rfl := List.mem_singleton.1 hp
    exact ⟨rfl, Nat.zero_le _⟩
  names := List.nodup_singleton _
  owners := List.nodup_singleton _
  linesOnce := List.nodup_nil
  linesAgree p hp := by
    obtain rfl := List.mem_singleton.1 hp
    simp [lineLevel_asserted, State.construct, Session.construct]

/-- No event has come, and none is needed for a session at 0. -/
theorem construct_wellFramed (P : Params) (cfg : SessionCfg) : (State.construct P cfg).WellFramed := rfl

/-- No session is parked, and no line is asserted. -/
theorem construct_serialised (P : Params) (cfg : SessionCfg) : (State.construct P cfg).Serialised where
  parked := nofun
  lines id := by simp [lineLevel_asserted, State.construct, Session.construct]

end Sys2Proof.Machine

open Sys2Proof Sys2Proof.Machine

/-- Settles O37: the fields are construction's own, and `max_value` is computed from the options. -/
theorem constructedState : Obligations.ConstructedState :=
  ⟨fun _ cfg => ⟨rfl, toNat_maxValueOf cfg, rfl, rfl, rfl, rfl, rfl⟩, refParams, bootCfg, rfl⟩

/-- Settles O38: the invariants hold of every constructed session, and REF meets its constraints. -/
theorem resetMeetsInvariants : Obligations.ResetMeetsInvariants :=
  ⟨construct_inv (by decide) bootCfg, construct_wellFramed _ _, construct_serialised _ _⟩
end
